-- ==== Sys2Proof/Word.lean ====
section
/-! DEFINITION. The word types of CORE: one 8-bit channel or transport byte, one 64-bit command word, the 16-bit
Rgb565 colour, and the fixed geometry (00_scope.md R10, 30_encoding.md R55). -/

namespace Sys2Proof

/-- An 8-bit unsigned value: a colour channel (10_state.md R21), a LUT entry (R24), a transported byte (30 R64). -/
abbrev Byte := BitVec 8

/-- A command word `cmd[63:0]` (30_encoding.md R55). -/
abbrev Word := BitVec 64

/-- A 16-bit Rgb565 colour (30_encoding.md R60). -/
abbrev Rgb565 := BitVec 16

/-- `WIDTH`, the number of columns (00_scope.md R10). -/
abbrev width : Nat := 64

/-- `HEIGHT`, the number of logical rows (00_scope.md R10). -/
abbrev height : Nat := 32

/-- `CHANNEL_BITS` (00_scope.md R10). -/
abbrev channelBits : Nat := 8

end Sys2Proof
end

