-- ==== Sys2Proof/Syntax.lean ====
section
/-! DEFINITION. The four commands of the host port (30_encoding.md R61), one constructor per row of
spec/opcode_table.json. -/

namespace Sys2Proof

/-- A command, with its operands as the model's mathematical values (20_memory.md R39: coordinates are integers). -/
inductive Instr where
  /-- `WRPIX x, y, color` (40_quantizer_framebuffer.md R78): `x` is the column, `y` the row. -/
  | wrpix (x y : Int) (color : Rgb565)
  /-- `WIPE` (40 R80). -/
  | wipe
  /-- `OUTPUT` (42_scan_engine.md R90). -/
  | output
  /-- `BBOX` (40 R81). -/
  | bbox
  deriving DecidableEq, Repr

end Sys2Proof
end

