-- ==== Sys2Proof/WellFormed.lean ====
section
/-! DEFINITION. Which commands have an encoding: the coordinates of a WRPIX fit signed 16-bit fields
(30_encoding.md R57, R59). Every other operand fits by its type. -/

namespace Sys2Proof

/-- The values of a signed 16-bit field, −32768..32767 (30_encoding.md R59). -/
def fitsInt16 (z : Int) : Bool := decide (-32768 ≤ z) && decide (z ≤ 32767)

/-- A command that a word can carry. -/
def Instr.wellFormed : Instr → Bool
  | .wrpix x y _ => fitsInt16 x && fitsInt16 y
  | .wipe => true
  | .output => true
  | .bbox => true

end Sys2Proof
end

