-- ==== Sys2Proof/Decode.lean ====
section
/-! DEFINITION. The decoder, total on every word and on any bytes, and the encoder (30_encoding.md R55 to R64). -/

namespace Sys2Proof

/-- Why bytes are no command. R63 calls the first two ILLEGAL; the third never reaches the host port, which takes
whole words (R55). -/
inductive DecodeError where
  /-- Opcode `0x00` or `0x05`–`0xFF` (30_encoding.md R61, R63). -/
  | undefinedOpcode (opc : Byte)
  /-- A defined opcode with a nonzero reserved bit (30_encoding.md R62, R63). -/
  | reservedNonzero (opc : Byte)
  /-- Fewer than the 8 bytes of a word (30_encoding.md R64). -/
  | truncated (count : Nat)
  deriving DecidableEq, Repr

/-- `OPC = cmd[63:56]` (30_encoding.md R56). -/
def opcField (w : Word) : Byte := w.extractLsb' 56 8

/-- `RSV = cmd[55:48]` of format PIX (30_encoding.md R57). -/
def rsvPixField (w : Word) : BitVec 8 := w.extractLsb' 48 8

/-- `COLOR = cmd[47:32]` (30_encoding.md R57). -/
def colorField (w : Word) : Rgb565 := w.extractLsb' 32 16

/-- `Y = cmd[31:16]` (30_encoding.md R57). -/
def yField (w : Word) : BitVec 16 := w.extractLsb' 16 16

/-- `X = cmd[15:0]` (30_encoding.md R57). -/
def xField (w : Word) : BitVec 16 := w.extractLsb' 0 16

/-- `RSV = cmd[55:0]` of format NONE (30_encoding.md R58). -/
def rsvNoneField (w : Word) : BitVec 56 := w.extractLsb' 0 56

/-- `int16(f)`, the signed value of a 16-bit two's-complement field (00_scope.md R13). -/
def int16 (f : BitVec 16) : Int := f.toInt

/-- `decode(cmd)` of 30_encoding.md R62; `ILLEGAL` is an error that says why. -/
def decode (w : Word) : Except DecodeError Instr :=
  if opcField w = 0x01#8 then
    if rsvPixField w = 0 then .ok (.wrpix (int16 (xField w)) (int16 (yField w)) (colorField w))
    else .error (.reservedNonzero (opcField w))
  else if opcField w = 0x02#8 then
    if rsvNoneField w = 0 then .ok .wipe else .error (.reservedNonzero (opcField w))
  else if opcField w = 0x03#8 then
    if rsvNoneField w = 0 then .ok .output else .error (.reservedNonzero (opcField w))
  else if opcField w = 0x04#8 then
    if rsvNoneField w = 0 then .ok .bbox else .error (.reservedNonzero (opcField w))
  else .error (.undefinedOpcode (opcField w))

/-- The word of 8 transported bytes, byte 0 first: byte `k` is `cmd[8k+7:8k]` (30_encoding.md R64). -/
def wordOfBytes (b0 b1 b2 b3 b4 b5 b6 b7 : Byte) : Word :=
  b7 ++ b6 ++ b5 ++ b4 ++ b3 ++ b2 ++ b1 ++ b0

/-- The 8 bytes of a word in the order a byte-wide transport sends them (30_encoding.md R64). -/
def bytesOfWord (w : Word) : List Byte :=
  [w.extractLsb' 0 8, w.extractLsb' 8 8, w.extractLsb' 16 8, w.extractLsb' 24 8,
   w.extractLsb' 32 8, w.extractLsb' 40 8, w.extractLsb' 48 8, w.extractLsb' 56 8]

/-- Reads one command from a byte-wide transport, with the bytes left over. Every command has 8 bytes (R55). -/
def decodeBytes : List Byte → Except DecodeError (Instr × List Byte)
  | b0 :: b1 :: b2 :: b3 :: b4 :: b5 :: b6 :: b7 :: rest =>
    match decode (wordOfBytes b0 b1 b2 b3 b4 b5 b6 b7) with
    | .ok i => .ok (i, rest)
    | .error e => .error e
  | short => .error (.truncated short.length)

/-- The opcode of a command (30_encoding.md R61). -/
def Instr.opcode : Instr → Byte
  | .wrpix _ _ _ => 0x01#8
  | .wipe => 0x02#8
  | .output => 0x03#8
  | .bbox => 0x04#8

/-- The word of a command, from the formats of 30_encoding.md R57 and R58, reserved fields zero. It carries the
command when `Instr.wellFormed` holds. -/
def encode : Instr → Word
  | .wrpix x y color => 0x01#8 ++ 0#8 ++ color ++ BitVec.ofInt 16 y ++ BitVec.ofInt 16 x
  | .wipe => 0x02#8 ++ 0#56
  | .output => 0x03#8 ++ 0#56
  | .bbox => 0x04#8 ++ 0#56

/-- The instruction the decoder reads from an instruction whose bits are `w`, bit 0 the least significant of the one
64-bit word; the word is laid out as the transport stores it, in bytes (30_encoding.md R64). No instruction has more
than 64 bits (R55). -/
def decodeTableWord (nbits w : Nat) : Option Instr :=
  if 64 < nbits then none
  else
    match decodeBytes (bytesOfWord (BitVec.ofNat 64 (w % 2 ^ nbits))) with
    | .ok (i, _) => some i
    | .error _ => none

end Sys2Proof
end

