-- ==== Sys2Proof/Machine/Types.lean ====
section
/-! DEFINITION. The plain data the panel port, the panel and the sequencer are made of. -/

namespace Sys2Proof.Machine

/-- One of the two halves of the framebuffer (00_scope.md R10). -/
inductive Half where
  | upper
  | lower
  deriving DecidableEq, Repr

/-- A colour cell: three independent 8-bit channels (10_state.md R21). -/
structure Color where
  r : Byte
  g : Byte
  b : Byte
  deriving DecidableEq, Repr

/-- `(0, 0, 0)`, the cell that construction and WIPE leave (10_state.md R22, 40 R80). -/
def Color.black : Color := ⟨0, 0, 0⟩

/-- `cell_word = {r, g, b}`, a cell as one 24-bit word (20_memory.md R44). -/
def Color.word (c : Color) : BitVec 24 := c.r ++ c.g ++ c.b

/-- An index of framebuffer space, `(h, r, c)` (20_memory.md R38). -/
structure FbAddr where
  half : Half
  row  : Fin 16
  col  : Fin 64
  deriving DecidableEq, Repr

/-- The three colour lines of one half, one bit of each channel; `true` is 1, the colour is on (42_scan_engine.md
R96). -/
structure Rgb where
  r : Bool
  g : Bool
  b : Bool
  deriving DecidableEq, Repr, Inhabited

/-- One column's bits: the pair `(PINS.RGB_U, PINS.RGB_L)` that a shift clocks in (42_scan_engine.md R109). -/
structure ColumnBits where
  upper : Rgb
  lower : Rgb
  deriving DecidableEq, Repr, Inhabited

/-- The levels on the panel lines (10_state.md R33). `oe = false` is low: the panel is lit. -/
structure Pins where
  rgbU   : Rgb
  rgbL   : Rgb
  rowsel : BitVec 4
  clk    : Bool
  lat    : Bool
  oe     : Bool
  deriving DecidableEq, Repr, Inhabited

/-- The panel's own buffers (10_state.md R36): the pairs shifted in, oldest first, and the active output buffer. -/
structure Panel where
  sr  : List ColumnBits
  out : List ColumnBits
  deriving DecidableEq, Repr

/-- A value of the parameter type `ERR` (00_scope.md R12). CORE never inspects it.
DESIGN CHOICE (safe, log entry 3): a natural-number tag stands for the value, so any countable `ERR` embeds. -/
structure Err where
  tag : Nat
  deriving DecidableEq, Repr, Inhabited

/-- The environment's answer to one panel-port call (42_scan_engine.md R94). -/
inductive Resp where
  | ok
  | err (e : Err)
  deriving DecidableEq, Repr, Inhabited

/-- A panel-port call with its arguments (42_scan_engine.md R93). -/
inductive Call where
  /-- `RowSet(row)`. -/
  | rowSet (row : Fin 16)
  /-- `ColorSet(h, cell, mask)`. -/
  | colorSet (h : Half) (cell : Color) (mask : Fin 8)
  /-- `Shift()`. -/
  | shift
  /-- `Latch()`. -/
  | latch
  /-- `Show(d)`, `d` in delay units. -/
  | showFor (d : Nat)
  deriving DecidableEq, Repr

/-- One event of a run's trace, `(kind, arguments, response)` (42_scan_engine.md R100). -/
structure Event where
  call : Call
  resp : Resp
  deriving DecidableEq, Repr

/-- What one completed `Show` displayed: `PANEL.OUT` on the selected row pair for `units` delay units
(42_scan_engine.md R109). -/
structure Frame where
  rowsel  : BitVec 4
  columns : List ColumnBits
  units   : Nat
  deriving DecidableEq, Repr

/-- `SEQ.phase` (10_state.md R29). -/
inductive Phase where
  | idle
  | row
  | colorU
  | colorL
  | shift
  | latch
  | showing
  deriving DecidableEq, Repr

/-- The scan sequencer `SEQ = (phase, row, plane, col)` (10_state.md R29). -/
structure Seq where
  phase : Phase
  row   : Fin 16
  plane : Fin 8
  col   : Fin 64
  deriving DecidableEq, Repr

/-- The configuration registers (10_state.md R28). -/
structure Cfg where
  bits        : Nat
  h           : Nat
  constructed : Bool
  deriving DecidableEq, Repr

/-- The status of a response (30_encoding.md R66). The codes `0x04`–`0xFF` are never produced, so they have no
constructor. -/
inductive Status where
  | ok
  | extErr
  | illegal
  | notConstructed
  deriving DecidableEq, Repr

/-- A command's response `(STATUS, DATA, ERRVAL)` (30_encoding.md R65). -/
structure Response where
  status : Status
  data   : BitVec 64
  errval : Option Err
  deriving DecidableEq, Repr

/-- Who moves next while CONCURRENT_WRITES is true (20_memory.md R52): a list of these is one interleaving. -/
inductive WriterTurn where
  /-- CORE takes this step. -/
  | core
  /-- The second writer performs a WRPIX. -/
  | wrpix (x y : Int) (color : Rgb565)
  /-- The second writer starts a WIPE: its 2048 cell writes become pending. -/
  | startWipe
  /-- The second writer performs the pending cell write number `k` of its WIPE. -/
  | wipeCell (k : Nat)
  deriving DecidableEq, Repr

/-- `LUT`: 256 entries of 8 bits (10_state.md R24). -/
abbrev Lut := Vector Byte 256

/-- The laws of `GAMMA` that are not true by type (40_quantizer_framebuffer.md R73): nondecreasing (L2), its two ends
(L3), not the identity (L5). L1 holds by type, L4 because the table is data. -/
abbrev Lut.Lawful (t : Lut) : Prop :=
  (∀ i j : Fin 256, i ≤ j → t[i] ≤ t[j]) ∧ t[(0 : Fin 256)] = 0 ∧ t[(255 : Fin 256)] = 255 ∧
    ∃ i : Fin 256, t[i].toNat ≠ i.val

end Sys2Proof.Machine
end

