-- ==== Sys2Proof/Machine/Operands.lean ====
section
/-! DEFINITION. The operand forms: a pixel coordinate, its clipping and its cell (20_memory.md R39 to R42), and the
Rgb565 colour with its LUT indices (30_encoding.md R60, 40_quantizer_framebuffer.md R75). -/

namespace Sys2Proof.Machine

/-- The half-open bounding box (0,0)–(64,32) (20_memory.md R40). -/
def inside (x y : Int) : Bool := decide (0 ≤ x ∧ x < width ∧ 0 ≤ y ∧ y < height)

/-- `map(x, y)`, defined only inside the box (20_memory.md R41). -/
def mapCoord (x y : Int) : Option FbAddr :=
  if inside x y then
    if y < 16 then some ⟨.upper, Fin.ofNat 16 y.toNat, Fin.ofNat 64 x.toNat⟩
    else some ⟨.lower, Fin.ofNat 16 (y - 16).toNat, Fin.ofNat 64 x.toNat⟩
  else none

/-- `RED5 = COLOR[15:11]` (30_encoding.md R60). -/
def red5 (color : Rgb565) : BitVec 5 := color.extractLsb' 11 5

/-- `GRN6 = COLOR[10:5]` (30_encoding.md R60). -/
def grn6 (color : Rgb565) : BitVec 6 := color.extractLsb' 5 6

/-- `BLU5 = COLOR[4:0]` (30_encoding.md R60). -/
def blu5 (color : Rgb565) : BitVec 5 := color.extractLsb' 0 5

/-- `(value + 1) * 8 - 1`, the LUT index of a red or blue channel (40_quantizer_framebuffer.md R75). -/
def idx5 (v : BitVec 5) : Fin 256 := ⟨(v.toNat + 1) * 8 - 1, by omega⟩

/-- `(value + 1) * 4 - 1`, the LUT index of a green channel (40_quantizer_framebuffer.md R75). -/
def idx6 (v : BitVec 6) : Fin 256 := ⟨(v.toNat + 1) * 4 - 1, by omega⟩

/-- The Pixel Quantizer `Q`, through a table (40_quantizer_framebuffer.md R76). -/
def quantize (lut : Lut) (color : Rgb565) : Color :=
  ⟨lut[idx5 (red5 color)], lut[idx6 (grn6 color)], lut[idx5 (blu5 color)]⟩

/-- `pos = mask + 8 - BITS`, the channel bit that a plane shows (42_scan_engine.md R96). -/
def bitPos (bits mask : Nat) : Nat := mask + channelBits - bits

/-- One bit of each channel of a cell, for a plane (42_scan_engine.md R96). -/
def planeLines (bits mask : Nat) (cell : Color) : Rgb :=
  ⟨cell.r.getLsbD (bitPos bits mask), cell.g.getLsbD (bitPos bits mask), cell.b.getLsbD (bitPos bits mask)⟩

end Sys2Proof.Machine
end

