-- ==== Sys2Proof/Machine/Flags.lean ====
section
/-! DEFINITION. CORE has no condition codes and no flags (10_state.md R19): no command reads or writes one. A command's
outcome is carried only in its response, whose codes and four shapes stand here (30_encoding.md R65, R66). -/

namespace Sys2Proof.Machine

/-- The 8-bit `STATUS` code (30_encoding.md R66). -/
def Status.code : Status → BitVec 8
  | .ok => 0x00#8
  | .extErr => 0x01#8
  | .illegal => 0x02#8
  | .notConstructed => 0x03#8

/-- `(OK, data, none)` (30_encoding.md R65). -/
def Response.okData (data : BitVec 64) : Response := ⟨.ok, data, none⟩

/-- `(OK, 0, none)`. -/
def Response.done : Response := Response.okData 0

/-- `(EXT_ERR, 0, e)`, the interface error unmodified (60_exceptions.md R114). -/
def Response.extErr (e : Err) : Response := ⟨.extErr, 0, some e⟩

/-- `(ILLEGAL, 0, none)` (30_encoding.md R63). -/
def Response.illegal : Response := ⟨.illegal, 0, none⟩

/-- `(NOT_CONSTRUCTED, 0, none)` (60_exceptions.md R115). -/
def Response.notConstructed : Response := ⟨.notConstructed, 0, none⟩

end Sys2Proof.Machine
end

