-- ==== Sys2Proof/Config.lean ====
section
/-! DEFINITION. What an instance of CORE fixes (00_scope.md R12) and the free values. Every `opaque` has no body:
nothing in Lean can evaluate one, so a theorem about the model holds whatever they are. -/

namespace Sys2Proof.Config

open Sys2Proof.Machine

/-- The construction input `BITS`, less one; so 1 ≤ `bits` ≤ 8 by type (00_scope.md R9). Log entry 5. -/
opaque bitsLessOne : Fin 8

/-- The numerator of the on-ratio, less one (30_encoding.md R68). Log entry 5. -/
opaque ratioNumLessOne : Nat

/-- How far the denominator of the on-ratio lies above the numerator, less one. Log entry 5. -/
opaque ratioGapLessOne : Nat

/-- `BITS` of this instance (00_scope.md R9). -/
def bits : Nat := bitsLessOne.val + 1

/-- `RATIO_NUM` of this instance; positive. -/
def ratioNum : Nat := ratioNumLessOne + 1

/-- `RATIO_DEN` of this instance; greater than `ratioNum`, so the pairs are exactly those with
`0 < RATIO_NUM < RATIO_DEN` (70_reset_and_hazards.md R127). -/
def ratioDen : Nat := ratioNum + (ratioGapLessOne + 1)

/-- An unconstrained table, from which `gamma` is made. Log entry 4. -/
opaque gammaSeed : Fin 256 → Byte

/-- A table that meets the laws, used only where the seed breaks one. -/
def gammaFallback : Lut := Vector.ofFn fun i => if i = 255 then 255 else 0

/-- The parameter `GAMMA` (40_quantizer_framebuffer.md R72): any lawful table may be meant, and nothing beyond the
laws of R73 can be proved of it. The seed is taken when it is lawful; the fallback only makes the laws provable without
giving the seed a body (log entry 4). Irreducible, so that no comparison of states evaluates the table. -/
@[irreducible] def gamma : Lut := if Lut.Lawful (Vector.ofFn gammaSeed) then Vector.ofFn gammaSeed else gammaFallback

/-- `PIN_INIT`, under no law (10_state.md R34). Log entry 6. -/
opaque pinInit : Pins

/-- The unknown contents of `PANEL.SR` at construction (10_state.md R36). Log entry 7. -/
opaque srInit : Fin 64 → ColumnBits

/-- The unknown contents of `PANEL.OUT` at construction (10_state.md R36). Log entry 7. -/
opaque outInit : Fin 64 → ColumnBits

/-- The idle level of `PINS.CLK`, which the source does not give (10_state.md R35). Log entry 10. -/
opaque clkIdle : Bool

/-- The idle level of `PINS.LAT`, which the source does not give (10_state.md R35). Log entry 10. -/
opaque latIdle : Bool

/-- `DELAY_UNIT` (41_brightness_compensator.md R87). Log entry 19. -/
opaque delayUnit : Nat

/-- `T_SHIFT_A` (42_scan_engine.md R97). Log entry 19. -/
opaque tShiftA : Nat

/-- `T_SHIFT_B` (42_scan_engine.md R97). Log entry 19. -/
opaque tShiftB : Nat

/-- `LATCH_TIMING` (42_scan_engine.md R98), as the whole time the latch pulse takes. Log entry 19. -/
opaque latchTiming : Nat

/-- `CONCURRENT_WRITES`, with the spec's default (00_scope.md R12). Log entry 16. -/
def concurrentWrites : Bool := false

/-- The environment's answer to the call numbered `n`, where no answer was fixed beforehand (42_scan_engine.md R94).
Log entry 2. -/
opaque freeAnswer : Nat → Resp

/-- What a failed `RowSet` left on the row-select lines (42_scan_engine.md R108). Log entry 8. -/
opaque freeRowsel : Nat → BitVec 4

/-- What a failed `ColorSet` left on its half's lines (42_scan_engine.md R108). Log entry 8. -/
opaque freeRgb : Nat → Rgb

/-- What a failed `Shift` left on the clock line (42_scan_engine.md R108). Log entry 8. -/
opaque freeClk : Nat → Bool

/-- What a failed `Latch` left on the latch line (42_scan_engine.md R108). Log entry 8. -/
opaque freeLat : Nat → Bool

/-- What a failed `Show` left on output enable (42_scan_engine.md R108). Log entry 8. -/
opaque freeOe : Nat → Bool

/-- What a failed `Shift` left in the panel's shift register (42_scan_engine.md R108). Log entry 8. -/
opaque freeSr : Nat → Fin 64 → ColumnBits

/-- What a failed `Latch` left in the panel's output buffer (42_scan_engine.md R108). Log entry 8. -/
opaque freeOut : Nat → Fin 64 → ColumnBits

end Sys2Proof.Config
end

