-- ==== Sys2Proof/Machine/Compensator.lean ====
section
/-! DEFINITION. The BCM brightness compensator: H and the hold durations (41_brightness_compensator.md). -/

namespace Sys2Proof.Machine

/-- `CFG.H = ((2*BITS + 1) * RATIO_NUM) div (RATIO_DEN - RATIO_NUM)` (41_brightness_compensator.md R83), for
`RATIO_NUM < RATIO_DEN`. -/
def compensationH (bits num den : Nat) : Nat := (2 * bits + 1) * num / (den - num)

/-- `duration(mask) = (2^mask * H) div (2^BITS - 1)`, multiplied first (41_brightness_compensator.md R85). -/
def duration (bits h mask : Nat) : Nat := 2 ^ mask * h / (2 ^ bits - 1)

end Sys2Proof.Machine
end

