-- ==== Sys2Proof/Machine/State.lean ====
section
/-! DEFINITION. The state of CORE (10_state.md), the reasons a step could stop, and the state after construction. -/

namespace Sys2Proof.Machine

/-- The framebuffer's bytes: `(address, byte)` with addresses strictly rising and no zero byte listed; an unlisted
address reads 0, which is what construction leaves everywhere (10_state.md R37). A cell's three channels lie at three
addresses in a row (log entry 12). -/
abbrev Mem := List Host.Cell

/-- The number of channel bytes: 2 × 16 × 64 cells of 3 (10_state.md R20). -/
abbrev fbBytes : Nat := 6144

/-- The canonical form of the framebuffer. -/
abbrev Mem.wf (m : Mem) : Prop :=
  m.Pairwise (fun p q => p.1 < q.1) ∧ ∀ p ∈ m, p.2 ≠ 0 ∧ p.1 < fbBytes

/-- Every piece of state the spec gives CORE and its panel, what a run observes, and the inputs still to come. -/
structure State where
  /-- `FB` (10_state.md R20). -/
  fb : Mem
  /-- `LUT` (10_state.md R24). -/
  lut : Lut
  /-- `CFG` (10_state.md R28). -/
  cfg : Cfg
  /-- The parameter `CONCURRENT_WRITES` of this instance (00_scope.md R12); no step changes it. -/
  concurrentWrites : Bool
  /-- `SEQ` (10_state.md R29). -/
  seq : Seq
  /-- `PINS` (10_state.md R33). -/
  pins : Pins
  /-- `PANEL` (10_state.md R36). -/
  panel : Panel
  /-- The words the host has still to issue, next first (20_memory.md R48; log entry 1). -/
  hostIn : List Word
  /-- The environment's answers already fixed, next first (42_scan_engine.md R94; log entry 2). -/
  answers : List Resp
  /-- How many panel-port calls were issued: the number the next free value is drawn with (log entry 9). -/
  draws : Nat
  /-- The second writer's schedule, next first (20_memory.md R52; log entry 16). -/
  turns : List WriterTurn
  /-- The cells of the second writer's WIPE still to be written (20_memory.md R52). -/
  wiping : List FbAddr
  /-- The responses returned on the host port, oldest first (30_encoding.md R65). -/
  responses : List Response
  /-- The panel-port events, in issue order (42_scan_engine.md R111). -/
  trace : List Event
  /-- What the completed `Show` calls displayed, oldest first (42_scan_engine.md R109; log entry 14). -/
  display : List Frame
  deriving DecidableEq, Repr

/-- CORE has no trap (60_exceptions.md R112 to R117) and no address outside its spaces can be named (20_memory.md
R45), so no step raises a fault and there is no reason to list. Safe: nothing is stopped. -/
inductive Fault where
  deriving DecidableEq, Repr

/-- Why a step would have no meaning. -/
inductive Refusal where
  /-- Raised by `exec`'s arm of a command that has no meaning yet; no arm raises it now. Safe: the run stops. -/
  | notModelled (mnemonic : String)
  deriving DecidableEq, Repr

/-- The state that a construction with legal inputs leaves (70_reset_and_hazards.md R126, 10_state.md R37), given
`BITS` and `H`. The inputs to come and what a run observes are empty (log entries 1, 2, 9, 15, 16). -/
def State.built (bits h : Nat) : State where
  fb := []
  lut := Config.gamma
  cfg := { bits := bits, h := h, constructed := true }
  concurrentWrites := Config.concurrentWrites
  seq := { phase := .idle, row := 0, plane := 0, col := 0 }
  pins := Config.pinInit
  panel := { sr := List.ofFn Config.srInit, out := List.ofFn Config.outInit }
  hostIn := []
  answers := []
  draws := 0
  turns := []
  wiping := []
  responses := []
  trace := []
  display := []

/-- CORE right after its construction, with this instance's legal inputs (10_state.md R37). -/
def State.reset : State :=
  State.built Config.bits (compensationH Config.bits Config.ratioNum Config.ratioDen)

end Sys2Proof.Machine
end

