-- ==== Sys2Proof/Machine/Ops.lean ====
section
/-! DEFINITION. The named operations over the state: bytes and cells of the framebuffer, one update per part of the
state, the host port's acceptance of a command and its completion, and the abort of a pass. -/

namespace Sys2Proof.Machine

/-! ### The framebuffer -/

/-- The byte at an address; an unlisted address reads 0. -/
def Mem.read (m : Mem) (a : Nat) : Byte := (List.lookup a m).getD 0

/-- The listing with no entry at an address. -/
def Mem.without (m : Mem) (a : Nat) : Mem := m.filter fun p => p.1 != a

/-- The listing with an entry put before the first greater address. -/
def Mem.insertAt (a : Nat) (v : Byte) : Mem → Mem
  | [] => [(a, v)]
  | p :: ps => if a < p.1 then (a, v) :: p :: ps else p :: Mem.insertAt a v ps

/-- Writes one byte; writing 0 removes the entry, so that equal contents are equal listings. -/
def Mem.write (m : Mem) (a : Nat) (v : Byte) : Mem :=
  if v = 0 then m.without a else Mem.insertAt a v (m.without a)

/-- 0 for the upper half, 1 for the lower. -/
def Half.index : Half → Nat
  | .upper => 0
  | .lower => 1

/-- The address of the first of a cell's three channel bytes (log entry 12). -/
def FbAddr.base (a : FbAddr) : Nat := 3 * (1024 * a.half.index + 64 * a.row.val + a.col.val)

/-- `FbRead(h, r, c)` (20_memory.md R41): red, green and blue at three addresses in a row. -/
def Mem.readCell (m : Mem) (a : FbAddr) : Color :=
  ⟨m.read a.base, m.read (a.base + 1), m.read (a.base + 2)⟩

/-- `FbWrite(h, r, c, cell)`: all three channels in one indivisible step (20_memory.md R46). -/
def Mem.writeCell (m : Mem) (a : FbAddr) (c : Color) : Mem :=
  ((m.write a.base c.r).write (a.base + 1) c.g).write (a.base + 2) c.b

/-- The 2048 cells of the framebuffer (20_memory.md R38). -/
def allCells : List FbAddr :=
  [Half.upper, Half.lower].flatMap fun h =>
    (List.finRange 16).flatMap fun r => (List.finRange 64).map fun c => ⟨h, r, c⟩

/-! ### One update per part of the state -/

/-- Replaces the framebuffer. -/
def State.setFb (s : State) (m : Mem) : State := { s with fb := m }

/-- `seq <- q` (00_scope.md R15). -/
def State.setSeq (s : State) (q : Seq) : State := { s with seq := q }

/-- Replaces the panel lines' levels. -/
def State.setPins (s : State) (p : Pins) : State := { s with pins := p }

/-- Replaces the panel's buffers. -/
def State.setPanel (s : State) (p : Panel) : State := { s with panel := p }

/-- Replaces the words the host has still to issue. -/
def State.setHostIn (s : State) (ws : List Word) : State := { s with hostIn := ws }

/-- Replaces the second writer's schedule. -/
def State.setTurns (s : State) (ts : List WriterTurn) : State := { s with turns := ts }

/-- Replaces the pending cells of the second writer's WIPE. -/
def State.setWiping (s : State) (cs : List FbAddr) : State := { s with wiping := cs }

/-- `complete(status, payload)`: returns a response on the host port (30_encoding.md R65). -/
def State.respond (s : State) (r : Response) : State := { s with responses := s.responses ++ [r] }

/-- Records one panel-port event in the trace (42_scan_engine.md R100). -/
def State.record (s : State) (e : Event) : State := { s with trace := s.trace ++ [e] }

/-- Records what a completed `Show` displayed (42_scan_engine.md R109). -/
def State.exhibit (s : State) (f : Frame) : State := { s with display := s.display ++ [f] }

/-- The environment's answer to the next call: the one fixed beforehand, else a free value (42_scan_engine.md R94,
log entry 2). -/
def State.nextAnswer (s : State) : Resp :=
  match s.answers with
  | [] => Config.freeAnswer s.draws
  | r :: _ => r

/-- One call was answered: its answer is used up and the number of free values advances (log entry 9). -/
def State.consumeAnswer (s : State) : State := { s with answers := s.answers.tail, draws := s.draws + 1 }

/-! ### The host port -/

/-- What the host port does with a command whose own effect is `effect`. It takes no command while a pass is in
progress (10_state.md R31): the state stays as it is and the host waits (log entry 18). An instance that was not
constructed answers NOT_CONSTRUCTED whatever the command is (60_exceptions.md R115, R116). -/
def State.onHostPort (s : State) (effect : State → State) : Host.Outcome State Fault Refusal :=
  if s.seq.phase ≠ .idle then .next s
  else if s.cfg.constructed then .next (effect s)
  else .next (s.respond Response.notConstructed)

/-! ### Taking the exception -/

/-- `raise ExtError(e)` (60_exceptions.md R114, 42_scan_engine.md R107): the pass ends, the sequencer is IDLE and the
host gets `(EXT_ERR, 0, e)`. Nothing is saved, there is no handler and no return from it (60 R117, R118): the next
command runs as any other. -/
def State.raiseExtError (s : State) (e : Err) : State :=
  (s.setSeq { s.seq with phase := .idle }).respond (Response.extErr e)

end Sys2Proof.Machine
end

