-- ==== Sys2Proof/Machine/Framebuffer.lean ====
section
/-! DEFINITION. The framebuffer-side commands WRPIX, WIPE and BBOX (40_quantizer_framebuffer.md). -/

namespace Sys2Proof.Machine

/-- The framebuffer write of a WRPIX: the quantized cell at the coordinate's cell, or nothing outside the box
(40_quantizer_framebuffer.md R78, 20_memory.md R42). The second writer performs the same write (20 R52). -/
def State.writePixel (s : State) (x y : Int) (color : Rgb565) : State :=
  match mapCoord x y with
  | some a => s.setFb (s.fb.writeCell a (quantize s.lut color))
  | none => s

/-- WRPIX (40_quantizer_framebuffer.md R78). -/
def execWrpix (x y : Int) (color : Rgb565) (s : State) : Host.Outcome State Fault Refusal :=
  s.onHostPort fun s => (s.writePixel x y color).respond Response.done

/-- WIPE: every cell of both halves becomes (0,0,0), as one command (40_quantizer_framebuffer.md R80). -/
def execWipe (s : State) : Host.Outcome State Fault Refusal :=
  s.onHostPort fun s => (s.setFb []).respond Response.done

/-- The `DATA` word of BBOX: `HEIGHT`, `WIDTH`, `Y0`, `X0` from the high field down (30_encoding.md R67). -/
def bboxData : BitVec 64 := BitVec.ofNat 16 height ++ BitVec.ofNat 16 width ++ 0#16 ++ 0#16

/-- BBOX (40_quantizer_framebuffer.md R81). -/
def execBbox (s : State) : Host.Outcome State Fault Refusal :=
  s.onHostPort fun s => s.respond (Response.okData bboxData)

end Sys2Proof.Machine
end

