-- ==== Sys2Proof/Machine/Scan.lean ====
section
/-! DEFINITION. The scan engine: OUTPUT, and the step that issues one panel-port call (42_scan_engine.md). -/

namespace Sys2Proof.Machine

/-- OUTPUT: the pass starts at row 0, plane 0, column 0 and no call is issued yet (42_scan_engine.md R90, R101). The
steps that follow are `scanStep`; the last of them returns the response. -/
def execOutput (s : State) : Host.Outcome State Fault Refusal :=
  s.onHostPort fun s => s.setSeq ⟨.row, 0, 0, 0⟩

/-- The call that `SEQ` names, none while IDLE (42_scan_engine.md R93). A colour call reads its cell now (R96). -/
def State.nextCall (s : State) : Option Call :=
  match s.seq.phase with
  | .idle => none
  | .row => some (.rowSet s.seq.row)
  | .colorU => some (.colorSet .upper (s.fb.readCell ⟨.upper, s.seq.row, s.seq.col⟩) s.seq.plane)
  | .colorL => some (.colorSet .lower (s.fb.readCell ⟨.lower, s.seq.row, s.seq.col⟩) s.seq.plane)
  | .shift => some .shift
  | .latch => some .latch
  | .showing => some (.showFor (duration s.cfg.bits s.cfg.h s.seq.plane))

/-- `succ(phase, row, plane, col)`, applied only after an `ok` (42_scan_engine.md R103). -/
def Seq.succ (bits : Nat) (q : Seq) : Seq :=
  match q.phase with
  | .idle => q
  | .row => ⟨.colorU, q.row, 0, 0⟩
  | .colorU => { q with phase := .colorL }
  | .colorL => { q with phase := .shift }
  | .shift =>
    if q.col.val < 63 then { q with phase := .colorU, col := Fin.ofNat 64 (q.col.val + 1) }
    else { q with phase := .latch }
  | .latch => { q with phase := .showing }
  | .showing =>
    if q.plane.val + 1 < bits then ⟨.colorU, q.row, Fin.ofNat 8 (q.plane.val + 1), 0⟩
    else if q.row.val < 15 then ⟨.row, Fin.ofNat 16 (q.row.val + 1), 0, 0⟩
    else { q with phase := .idle }

/-- The last 64 of the shifted pairs, oldest first (42_scan_engine.md R109). -/
def lastColumns (sr : List ColumnBits) : List ColumnBits := sr.drop (sr.length - 64)

/-- What a call does to the lines and the panel when it returns `ok` (42_scan_engine.md R95 to R99, R109). A shift and
a latch leave their line at its idle level (10_state.md R35); a show leaves output enable high. -/
def okEffects (k : Call) (s : State) : State :=
  match k with
  | .rowSet row => s.setPins { s.pins with rowsel := BitVec.ofNat 4 row.val }
  | .colorSet .upper cell mask => s.setPins { s.pins with rgbU := planeLines s.cfg.bits mask cell }
  | .colorSet .lower cell mask => s.setPins { s.pins with rgbL := planeLines s.cfg.bits mask cell }
  | .shift =>
    (s.setPins { s.pins with clk := Config.clkIdle }).setPanel
      { s.panel with sr := s.panel.sr ++ [⟨s.pins.rgbU, s.pins.rgbL⟩] }
  | .latch =>
    (s.setPins { s.pins with lat := Config.latIdle }).setPanel { s.panel with out := lastColumns s.panel.sr }
  | .showFor d =>
    (s.setPins { s.pins with oe := true }).exhibit ⟨s.pins.rowsel, s.panel.out, d⟩

/-- What a failed call leaves: each field it would have written holds a free value, every other field its own
(42_scan_engine.md R108). `n` is the number of the call. -/
def failedEffects (k : Call) (n : Nat) (s : State) : State :=
  match k with
  | .rowSet _ => s.setPins { s.pins with rowsel := Config.freeRowsel n }
  | .colorSet .upper _ _ => s.setPins { s.pins with rgbU := Config.freeRgb n }
  | .colorSet .lower _ _ => s.setPins { s.pins with rgbL := Config.freeRgb n }
  | .shift =>
    (s.setPins { s.pins with clk := Config.freeClk n }).setPanel
      { s.panel with sr := List.ofFn (Config.freeSr n) }
  | .latch =>
    (s.setPins { s.pins with lat := Config.freeLat n }).setPanel
      { s.panel with out := List.ofFn (Config.freeOut n) }
  | .showFor _ => s.setPins { s.pins with oe := Config.freeOe n }

/-- `SEQ` moves on after an `ok`; where that ends the pass, OUTPUT completes with OK (42_scan_engine.md R102, R104). -/
def State.advance (s : State) : State :=
  let s' := s.setSeq (s.seq.succ s.cfg.bits)
  if s'.seq.phase = .idle then s'.respond Response.done else s'

/-- The environment's answer to the call comes in (42_scan_engine.md R102). -/
def State.issue (s : State) (k : Call) : State :=
  let s' := s.consumeAnswer.record ⟨k, s.nextAnswer⟩
  match s.nextAnswer with
  | .ok => (okEffects k s').advance
  | .err e => (failedEffects k s.draws s').raiseExtError e

/-- One step of the scan engine: it issues exactly one call and consumes its answer (42_scan_engine.md R102). While
IDLE it takes no step (R92). -/
def State.scanStep (s : State) : State :=
  match s.nextCall with
  | some k => s.issue k
  | none => s

end Sys2Proof.Machine
end

