-- ==== Sys2Proof/Machine/Dispatch.lean ====
section
/-! DEFINITION. The meaning of every command (30_encoding.md R61), one arm per constructor. -/

namespace Sys2Proof.Machine

def exec (i : Instr) (s : State) : Host.Outcome State Fault Refusal :=
  match i with
  | .wrpix x y color => Sys2Proof.Machine.execWrpix x y color s
  | .wipe => Sys2Proof.Machine.execWipe s
  | .output => Sys2Proof.Machine.execOutput s
  | .bbox => Sys2Proof.Machine.execBbox s

end Sys2Proof.Machine
end

