-- ==== Sys2Proof/Machine/Writer.lean ====
section
/-! DEFINITION. The optional second writer of 20_memory.md R52 (CONCURRENT_WRITES = true). -/

namespace Sys2Proof.Machine

/-- One turn of the second writer. A WRPIX and each cell write of its WIPE are one indivisible step; the cell writes of
a WIPE come in any order, chosen by the schedule (20_memory.md R52).
DESIGN CHOICE (unsafe, log entry 16): a WIPE may start while cells of an earlier one are pending, which stay and are
followed by 2048 more; a number with no pending cell does nothing; and no turn returns a response. R52 speaks of the
framebuffer writes alone. It says neither whether the second writer's WIPEs may overlap nor whether its WRPIX or WIPE
completes with a response, as the host's do (40_quantizer_framebuffer.md R78, R80). -/
def State.writerTurn (s : State) (t : WriterTurn) : State :=
  match t with
  | .core => s
  | .wrpix x y color => s.writePixel x y color
  | .startWipe => s.setWiping (s.wiping ++ allCells)
  | .wipeCell k =>
    match s.wiping[k]? with
    | some a => (s.setFb (s.fb.writeCell a Color.black)).setWiping (s.wiping.eraseIdx k)
    | none => s

/-- Whether a second writer exists and may move: only with CONCURRENT_WRITES, and only once CORE was constructed
(20_memory.md R51, R52; 60_exceptions.md R115). -/
def State.writerMayMove (s : State) : Bool := s.concurrentWrites && s.cfg.constructed

end Sys2Proof.Machine
end

