-- ==== Sys2Proof/Machine/HostPort.lean ====
section
/-! DEFINITION. Who moves next, and what the host port does with the next word (20_memory.md R48, R52; 30_encoding.md
R62, R63; 42_scan_engine.md R92). -/

namespace Sys2Proof.Machine

/-- Runs one command word: the command it decodes to, or ILLEGAL with no effect (30_encoding.md R63). Being
constructed comes before either (60_exceptions.md R116), in `State.onHostPort`. -/
def runWord (w : Word) (s : State) : Host.Outcome State Fault Refusal :=
  match decode w with
  | .ok i => exec i s
  | .error _ => s.onHostPort fun s => s.respond Response.illegal

/-- One step of CORE: the scan engine's next call while a pass is in progress, else the host's next word; with
neither, CORE waits (42_scan_engine.md R92, R102; 20_memory.md R48; 70_reset_and_hazards.md R128; log entry 27). -/
def coreStep (s : State) : Host.Outcome State Fault Refusal :=
  if s.seq.phase ≠ .idle then .next s.scanStep
  else
    match s.hostIn with
    | [] => .next s
    | w :: rest => runWord w (s.setHostIn rest)

/-- One step of the machine: CORE's, or the second writer's where there is one and the schedule gives it the turn
(20_memory.md R52). An empty schedule leaves every turn to CORE. -/
def machineStep (s : State) : Host.Outcome State Fault Refusal :=
  if s.writerMayMove then
    match s.turns with
    | [] => coreStep s
    | .core :: rest => coreStep (s.setTurns rest)
    | t :: rest => .next ((s.setTurns rest).writerTurn t)
  else coreStep s

end Sys2Proof.Machine
end

