-- ==== Sys2Proof/Machine/Step.lean ====
section
/-! DEFINITION. The step, and placing one command where the next step takes it from. -/

namespace Sys2Proof.Machine

/-- One step of the machine. It is `machineStep`, in HostPort.lean. -/
def step (s : State) : Host.Outcome State Fault Refusal := machineStep s

/-- `s` with the word `w` as the host's next command, so that the very next step runs it: the host port is free
(`SEQ.phase` IDLE), the instance constructed, and where there is a second writer the turn is CORE's. CORE fetches
nothing from memory (20_memory.md R54): a program is the host's stream of words (log entry 1). -/
def State.withFetchWord (s : State) (nbits w : Nat) : State :=
  { s with
    hostIn := BitVec.ofNat 64 (w % 2 ^ nbits) :: s.hostIn
    seq := { s.seq with phase := .idle }
    cfg := { s.cfg with constructed := true }
    turns := if s.concurrentWrites then .core :: s.turns else s.turns }

end Sys2Proof.Machine
end

