-- ==== Sys2Proof/Machine/Assembler.lean ====
section
/-! DEFINITION. The assembler syntax and its pseudo-forms (30_encoding.md R69, R70): one line of text to the commands
it stands for. Where the spec leaves the text open (spaces, letter case) log entry 24 says what is read. -/

namespace Sys2Proof.Machine

/-- Why a line is no command. -/
inductive AsmError where
  /-- A character sequence that is no word, number or punctuation. -/
  | badToken
  /-- The tokens are not of any form of R69 or R70. -/
  | badForm
  /-- An operand is outside its range (R69, R70). -/
  | outOfRange
  deriving DecidableEq, Repr

/-- The tokens of a line. -/
inductive AsmToken where
  | word (cs : List Char)
  | int (z : Int)
  | hex (n : Nat)
  | comma
  | lparen
  | rparen
  deriving DecidableEq, Repr

/-- The value of a decimal digit. -/
def digitValue (c : Char) : Option Nat :=
  if '0' ≤ c ∧ c ≤ '9' then some (c.toNat - '0'.toNat) else none

/-- The value of a hexadecimal digit. -/
def hexValue (c : Char) : Option Nat :=
  if 'a' ≤ c ∧ c ≤ 'f' then some (c.toNat - 'a'.toNat + 10)
  else if 'A' ≤ c ∧ c ≤ 'F' then some (c.toNat - 'A'.toNat + 10)
  else digitValue c

/-- The number that digits write in a base; none where a character is no digit or there is no digit. -/
def readDigits (value : Char → Option Nat) (base : Nat) : List Char → Option Nat
  | [] => none
  | cs => cs.foldl (fun acc c => do return (← acc) * base + (← value c)) (some 0)

/-- A run of characters between separators: a decimal integer, a `0x` number or a word.
DESIGN CHOICE (safe, log entry 24): no number holds the digit separator `_`, which 00_scope.md R13 gives for the spec's
own hexadecimal literals and 30_encoding.md R69 does not speak of. -/
def readRun (cs : List Char) : Except AsmError AsmToken :=
  match cs with
  | '0' :: 'x' :: ds =>
    match readDigits hexValue 16 ds with
    | some n => .ok (.hex n)
    | none => .error .badToken
  | '-' :: ds =>
    match readDigits digitValue 10 ds with
    | some n => .ok (.int (-(n : Int)))
    | none => .error .badToken
  | ds =>
    match readDigits digitValue 10 ds with
    | some n => .ok (.int n)
    | none => if ds.all Char.isAlpha then .ok (.word ds) else .error .badToken

/-- The token that a run just ended with gives, none for an empty run. -/
def endRun (run : List Char) : Except AsmError (List AsmToken) :=
  if run.isEmpty then .ok [] else (readRun run).map ([·])

/-- The tokens of a line; `run` is the run read so far, and `;` starts a comment (30_encoding.md R69). -/
def tokenize (run : List Char) : List Char → Except AsmError (List AsmToken)
  | [] => endRun run
  | c :: cs => do
    if c = ';' then endRun run
    else if c = ' ' ∨ c = '\t' then return (← endRun run) ++ (← tokenize [] cs)
    else if c = ',' then return (← endRun run) ++ .comma :: (← tokenize [] cs)
    else if c = '(' then return (← endRun run) ++ .lparen :: (← tokenize [] cs)
    else if c = ')' then return (← endRun run) ++ .rparen :: (← tokenize [] cs)
    else tokenize (run ++ [c]) cs

/-- The pseudo-operand `rgb(r5, g6, b5)`: `COLOR = {r5[4:0], g6[5:0], b5[4:0]}`; a value out of range is an assembly
error (30_encoding.md R70). -/
def rgbColor (r g b : Int) : Except AsmError Rgb565 :=
  if 0 ≤ r ∧ r ≤ 31 ∧ 0 ≤ g ∧ g ≤ 63 ∧ 0 ≤ b ∧ b ≤ 31 then
    .ok (BitVec.ofInt 5 r ++ BitVec.ofInt 6 g ++ BitVec.ofInt 5 b)
  else .error .outOfRange

/-- A colour operand, `0x0000..0xFFFF` or `rgb(…)`, and the tokens after it (30_encoding.md R69).
DESIGN CHOICE (safe, log entry 24): a `0x` colour has any number of digits, at least one, whose value is at most
0xFFFF, and the three values of `rgb` are decimal; R69 and R70 give neither the digit count nor the base. -/
def readColor : List AsmToken → Except AsmError (Rgb565 × List AsmToken)
  | .hex n :: rest => if n ≤ 0xFFFF then .ok (BitVec.ofNat 16 n, rest) else .error .outOfRange
  | .word ['r', 'g', 'b'] :: .lparen :: .int r :: .comma :: .int g :: .comma :: .int b :: .rparen :: rest =>
    (rgbColor r g b).map fun c => (c, rest)
  | _ => .error .badForm

/-- A WRPIX whose coordinates a word can carry (30_encoding.md R69). -/
def checkedWrpix (x y : Int) (color : Rgb565) : Except AsmError Instr :=
  if fitsInt16 x && fitsInt16 y then .ok (.wrpix x y color) else .error .outOfRange

/-- The operands `x, y, color` of one pixel, and the tokens after them. -/
def readPixel : List AsmToken → Except AsmError (Instr × List AsmToken)
  | .int x :: .comma :: .int y :: .comma :: rest => do
    let (color, rest) ← readColor rest
    return (← checkedWrpix x y color, rest)
  | _ => .error .badForm

/-- The pairs of a DRAW, `(x0, y0, c0), …`; `fuel` bounds their number. -/
def readPixels : Nat → List AsmToken → Except AsmError (List Instr)
  | fuel + 1, .lparen :: rest => do
    match ← readPixel rest with
    | (i, [.rparen]) => return [i]
    | (i, .rparen :: .comma :: rest) => return i :: (← readPixels fuel rest)
    | _ => .error .badForm
  | _, _ => .error .badForm

/-- The commands of the tokens of one line (30_encoding.md R69, R70). DRAW expands to its WRPIX commands in the order
written; with no pairs, or on an empty line, there is no command. -/
def readLine : List AsmToken → Except AsmError (List Instr)
  | [] => .ok []
  | [.word ['W', 'I', 'P', 'E']] => .ok [.wipe]
  | [.word ['O', 'U', 'T', 'P', 'U', 'T']] => .ok [.output]
  | [.word ['B', 'B', 'O', 'X']] => .ok [.bbox]
  | .word ['W', 'R', 'P', 'I', 'X'] :: rest => do
    match ← readPixel rest with
    | (i, []) => return [i]
    | _ => .error .badForm
  | [.word ['D', 'R', 'A', 'W']] => .ok []
  | .word ['D', 'R', 'A', 'W'] :: rest => readPixels rest.length rest
  | _ => .error .badForm

/-- The commands that one line of assembly text stands for. -/
def parseLine (line : List Char) : Except AsmError (List Instr) := do readLine (← tokenize [] line)

/-- The words that one line of assembly text stands for (30_encoding.md R71). -/
def assembleLine (line : List Char) : Except AsmError (List Word) := do return (← parseLine line).map encode

end Sys2Proof.Machine
end

