-- ==== Sys2Proof/Machine/Construct.lean ====
section
/-! DEFINITION. Construction, CORE's only reset (70_reset_and_hazards.md R126, R127; 30_encoding.md R68). -/

namespace Sys2Proof.Machine

/-- The construction checks: `1 ≤ BITS ≤ 8`, `RATIO_DEN > 0` and `0 < RATIO_NUM < RATIO_DEN`
(70_reset_and_hazards.md R127). -/
def constructOk (bits num : Int) (den : Nat) : Bool :=
  decide (1 ≤ bits ∧ bits ≤ 8 ∧ 0 < den ∧ 0 < num ∧ num < den)

/-- The inert instance that a failed construction leaves (70_reset_and_hazards.md R126, 60_exceptions.md R115).
DESIGN CHOICE (unsafe, log entry 17): the spec gives its other fields no value; they hold those of a built state with
BITS = 0 and H = 0, and nothing reads them. -/
def State.inert : State :=
  { State.built 0 0 with cfg := { bits := 0, h := 0, constructed := false } }

/-- `construct(BITS, N, D)` (70_reset_and_hazards.md R126). -/
def construct (bits num : Int) (den : Nat) : State :=
  if constructOk bits num den then State.built bits.toNat (compensationH bits.toNat num.toNat den)
  else State.inert

end Sys2Proof.Machine
end

