-- ==== Sys2Proof/Machine/Observe.lean ====
section
/-! DEFINITION. What a complete pass does, in closed form: its calls in order (42_scan_engine.md R105), their indices
(R106), what it displays (R109), how long each channel is lit (41_brightness_compensator.md R89) and the waits it
performs (70_reset_and_hazards.md R136). No step uses these; they say what the steps add up to. -/

namespace Sys2Proof.Machine

/-! ### The calls of a pass -/

/-- The bit-planes of a pass, ascending (42_scan_engine.md R91). -/
def planes (bits : Nat) : List (Fin 8) := (List.range bits).map (Fin.ofNat 8)

/-- The three calls of one column (42_scan_engine.md R105). -/
def columnCalls (m : Mem) (row : Fin 16) (mask : Fin 8) (col : Fin 64) : List Call :=
  [.colorSet .upper (m.readCell ⟨.upper, row, col⟩) mask,
   .colorSet .lower (m.readCell ⟨.lower, row, col⟩) mask,
   .shift]

/-- The 194 calls of one plane of one row (42_scan_engine.md R105). -/
def planeCalls (m : Mem) (bits h : Nat) (row : Fin 16) (mask : Fin 8) : List Call :=
  (List.finRange 64).flatMap (columnCalls m row mask) ++ [.latch, .showFor (duration bits h mask)]

/-- The calls of one row (42_scan_engine.md R105). -/
def rowCalls (m : Mem) (bits h : Nat) (row : Fin 16) : List Call :=
  .rowSet row :: (planes bits).flatMap (planeCalls m bits h row)

/-- The calls of a pass in which every call returns `ok` (42_scan_engine.md R105). -/
def passCalls (m : Mem) (bits h : Nat) : List Call :=
  (List.finRange 16).flatMap (rowCalls m bits h)

/-- The event of a call that returned `ok`. -/
def Call.okEvent (k : Call) : Event := ⟨k, .ok⟩

/-! ### The indices of the calls (42_scan_engine.md R106) -/

/-- `PR`, the calls per row. -/
def callsPerRow (bits : Nat) : Nat := 1 + 194 * bits

/-- The number of calls in a full pass, `16·PR`. -/
def callsPerPass (bits : Nat) : Nat := 16 * callsPerRow bits

/-- The index of `RowSet(r)`. -/
def rowSetIndex (bits r : Nat) : Nat := r * callsPerRow bits

/-- The index of the first call of plane `m` of row `r`. -/
def planeIndex (bits r m : Nat) : Nat := r * callsPerRow bits + 1 + m * 194

/-- The index of the upper colour call at `(r, m, c)`; the lower one and the shift follow it. -/
def colorIndex (bits r m c : Nat) : Nat := planeIndex bits r m + 3 * c

/-- The index of `Latch()` at `(r, m)`. -/
def latchIndex (bits r m : Nat) : Nat := planeIndex bits r m + 192

/-- The index of `Show` at `(r, m)`. -/
def showIndex (bits r m : Nat) : Nat := planeIndex bits r m + 193

/-! ### What a pass displays -/

/-- The bits that one column of a row presents for a plane (42_scan_engine.md R96). -/
def columnBits (m : Mem) (bits : Nat) (row : Fin 16) (mask : Fin 8) (col : Fin 64) : ColumnBits :=
  ⟨planeLines bits mask (m.readCell ⟨.upper, row, col⟩), planeLines bits mask (m.readCell ⟨.lower, row, col⟩)⟩

/-- What the `Show` of one plane of one row displays (42_scan_engine.md R109). -/
def planeFrame (m : Mem) (bits h : Nat) (row : Fin 16) (mask : Fin 8) : Frame :=
  ⟨BitVec.ofNat 4 row.val, (List.finRange 64).map (columnBits m bits row mask), duration bits h mask⟩

/-- What a full pass displays, in order. -/
def passFrames (m : Mem) (bits h : Nat) : List Frame :=
  (List.finRange 16).flatMap fun row => (planes bits).map (planeFrame m bits h row)

/-- The three colour channels. -/
inductive Channel where
  | red
  | green
  | blue
  deriving DecidableEq, Repr

/-- A channel's line. -/
def Channel.line (ch : Channel) (l : Rgb) : Bool :=
  match ch with
  | .red => l.r
  | .green => l.g
  | .blue => l.b

/-- A channel's value in a cell. -/
def Channel.value (ch : Channel) (c : Color) : Byte :=
  match ch with
  | .red => c.r
  | .green => c.g
  | .blue => c.b

/-- The lines that a frame drives for column `k` of half `h` of row address `row`, if it lights that row: the upper
lines go to logical row ROWSEL, the lower ones to logical row ROWSEL + 16 (42_scan_engine.md R109). -/
def Frame.lines (f : Frame) (a : FbAddr) : Option Rgb :=
  if f.rowsel.toNat = a.row.val then
    f.columns[a.col.val]?.map fun p => match a.half with
      | .upper => p.upper
      | .lower => p.lower
  else none

/-- How many delay units a frame lights a channel of the pixel of a cell. -/
def Frame.litUnits (ch : Channel) (a : FbAddr) (f : Frame) : Nat :=
  match f.lines a with
  | some l => if ch.line l then f.units else 0
  | none => 0

/-- How many delay units the frames light a channel of the pixel of a cell. -/
def litUnits (ch : Channel) (a : FbAddr) (fs : List Frame) : Nat := (fs.map (Frame.litUnits ch a)).sum

/-- `lit(v)`, the sum over the planes of `v[m + 8 - BITS] · duration(m)` (41_brightness_compensator.md R89). -/
def litOfValue (bits h : Nat) (v : Byte) : Nat :=
  ((List.range bits).map fun m => if v.getLsbD (bitPos bits m) then duration bits h m else 0).sum

/-- `q = v[7 : 8-BITS]`, the displayed value of a channel (40_quantizer_framebuffer.md R77). -/
def displayedValue (bits : Nat) (v : Byte) : Nat := v.toNat / 2 ^ (channelBits - bits)

/-! ### The waits -/

/-- How long a completed call waits: the two waits of a shift, the latch pulse, the hold of a show
(42_scan_engine.md R97 to R99, 41 R87; log entry 19). -/
def callWait : Call → Nat
  | .rowSet _ => 0
  | .colorSet _ _ _ => 0
  | .shift => Config.tShiftA + Config.tShiftB
  | .latch => Config.latchTiming
  | .showFor d => d * Config.delayUnit

end Sys2Proof.Machine
end

