-- ==== Sys2Proof/Safety.lean ====
section
/-! DEFINITION. What counts as a legal state and as a run that claims may speak of. -/

namespace Sys2Proof.Machine

/-- The configuration that a successful construction leaves (10_state.md R25, 70_reset_and_hazards.md R127). -/
abbrev State.cfgLegal (s : State) : Prop := s.cfg.constructed = true → 1 ≤ s.cfg.bits ∧ s.cfg.bits ≤ 8

/-- The sequencer's limits: a pass runs only on a constructed instance, and `plane` never passes BITS − 1
(10_state.md R31, R32). The limits of `row` and `col` hold by type. -/
abbrev State.seqLegal (s : State) : Prop :=
  s.seq.phase ≠ .idle → s.cfg.constructed = true ∧ s.seq.plane.val < s.cfg.bits

/-- The panel's buffers have the 64 columns of a row (10_state.md R36, 42_scan_engine.md R109). -/
abbrev State.panelShaped (s : State) : Prop := 64 ≤ s.panel.sr.length ∧ s.panel.out.length = 64

/-- The shape of a response: `DATA` is zero for all but BBOX, whose `DATA` is the rectangle, and `ERRVAL` is present
exactly with EXT_ERR (30_encoding.md R65, R67). -/
def Response.shaped (r : Response) : Bool :=
  (r.data == 0 || (r.data == bboxData && r.status == .ok)) && (r.errval.isSome == (r.status == .extErr))

/-- The invariant of the machine: a canonical framebuffer, a lawful gamma table, a legal configuration and sequencer,
panel buffers of the right size and responses of the right shape. -/
structure State.Inv (s : State) : Prop where
  fbWf : s.fb.wf
  lutLawful : s.lut.Lawful
  cfgLegal : s.cfgLegal
  seqLegal : s.seqLegal
  panelShaped : s.panelShaped
  responsesShaped : ∀ r ∈ s.responses, r.shaped = true

/-- A run of which no claim about the panel holds: its instance was not constructed (60_exceptions.md R115). -/
def State.faulted (s : State) : Bool := !s.cfg.constructed

/-- The next `n` panel-port calls are fixed to return `ok`. -/
abbrev State.okAhead (s : State) (n : Nat) : Prop := s.answers.take n = List.replicate n Resp.ok

/-- Every step is CORE's: there is no second writer, or it has no turn left (20_memory.md R51, R52). -/
abbrev State.coreMoves (s : State) : Prop := s.writerMayMove = false ∨ s.turns = []

/-- The next step is CORE's: there is no second writer, or its schedule is empty or gives CORE the turn (20_memory.md
R51, R52). -/
abbrev State.coresTurn (s : State) : Prop :=
  s.writerMayMove = false ∨ s.turns = [] ∨ ∃ ts, s.turns = .core :: ts

/-- The second writer's schedule once the next step has used its turn. -/
def State.turnsLeft (s : State) : List WriterTurn := if s.writerMayMove then s.turns.tail else s.turns

/-- The number of commands that the host has issued or will issue and that have been answered or not: the words still
to come, the OUTPUT in progress, and the responses. -/
def State.commandCount (s : State) : Nat :=
  s.hostIn.length + (if s.seq.phase = .idle then 0 else 1) + s.responses.length

/-- Renames the error values in an answer. -/
def Resp.mapErr (f : Err → Err) : Resp → Resp
  | .ok => .ok
  | .err e => .err (f e)

/-- Renames the error values in a state: in the answers to come, the trace and the responses. -/
def State.mapErr (f : Err → Err) (s : State) : State :=
  { s with
    answers := s.answers.map (Resp.mapErr f)
    trace := s.trace.map fun e => ⟨e.call, e.resp.mapErr f⟩
    responses := s.responses.map fun r => { r with errval := r.errval.map f } }

end Sys2Proof.Machine
end

