-- ==== Sys2Proof/Certificates/Slice0/Obligations.lean ====
section
/-! DEFINITION. The statements for the provers, each from the rules of spec/ that its docstring cites. -/

open Sys2Proof Sys2Proof.Machine

/-! ### Encoding -/

/-- 30_encoding.md R57, R58, R59, R62: no bit of a command is dropped by its word. -/
def Obligations.DecodeOfEncodedInstr : Prop :=
  ∀ i : Instr, i.wellFormed = true → decode (encode i) = .ok i

/-- 30_encoding.md R57 to R59, R62: a word that decodes is the one word of its command, which a word can carry. -/
def Obligations.EncodeOfDecodedWord : Prop :=
  ∀ (w : Word) (i : Instr), decode w = .ok i → i.wellFormed = true ∧ encode i = w

/-- 30_encoding.md R63: which words are illegal, told by the numbers in their fields, and that such a word changes no
state, issues no panel call and completes at once with ILLEGAL. -/
def Obligations.IllegalWordsCompleteWithoutEffect : Prop :=
  ∀ w : Word,
    ((∃ e, decode w = .error e) ↔
      w.toNat / 2 ^ 56 = 0 ∨ 5 ≤ w.toNat / 2 ^ 56 ∨
        (w.toNat / 2 ^ 56 = 1 ∧ w.toNat / 2 ^ 48 % 2 ^ 8 ≠ 0) ∨
        (2 ≤ w.toNat / 2 ^ 56 ∧ w.toNat / 2 ^ 56 ≤ 4 ∧ w.toNat % 2 ^ 56 ≠ 0)) ∧
    ∀ (s : State) (rest : List Word), s.coresTurn → s.seq.phase = .idle → s.cfg.constructed = true →
      s.hostIn = w :: rest → (∃ e, decode w = .error e) →
      step s = .next { s with hostIn := rest, turns := s.turnsLeft, responses := s.responses ++ [⟨.illegal, 0, none⟩] }

/-- 30_encoding.md R71: each line of the table assembles to its word. 95_test_vectors.md §2.1: each word decodes as
listed; an ILLEGAL word decodes to none (R63). -/
def Obligations.SpecWordsDecode : Prop :=
  assembleLine "WRPIX 0, 0, 0xFFFF".toList = .ok [0x0100FFFF00000000#64] ∧
  assembleLine "WRPIX 63, 31, rgb(31, 63, 31)".toList = .ok [0x0100FFFF001F003F#64] ∧
  assembleLine "WRPIX 5, 3, rgb(31, 0, 0)".toList = .ok [0x0100F80000030005#64] ∧
  assembleLine "WRPIX -1, 0, 0x07E0".toList = .ok [0x010007E00000FFFF#64] ∧
  assembleLine "WIPE".toList = .ok [0x0200000000000000#64] ∧
  assembleLine "OUTPUT".toList = .ok [0x0300000000000000#64] ∧
  assembleLine "BBOX".toList = .ok [0x0400000000000000#64] ∧
  decode 0x0100FFFF00000000#64 = .ok (.wrpix 0 0 0xFFFF) ∧
  decode 0x0100FFFF001F003F#64 = .ok (.wrpix 63 31 0xFFFF) ∧
  decode 0x0100000080007FFF#64 = .ok (.wrpix 32767 (-32768) 0x0000) ∧
  decode 0x010007E00000FFFF#64 = .ok (.wrpix (-1) 0 0x07E0) ∧
  decode 0x0101FFFF00000000#64 = .error (.reservedNonzero 0x01) ∧
  decode 0x0200000000000000#64 = .ok .wipe ∧
  decode 0x0200000000000001#64 = .error (.reservedNonzero 0x02) ∧
  decode 0x0300000000000000#64 = .ok .output ∧
  decode 0x0400000000000000#64 = .ok .bbox ∧
  decode 0x0000000000000000#64 = .error (.undefinedOpcode 0x00) ∧
  decode 0x0500000000000000#64 = .error (.undefinedOpcode 0x05) ∧
  decode 0xFF00000000000000#64 = .error (.undefinedOpcode 0xFF)

/-- 30_encoding.md R64: byte `k` of a transported word is `cmd[8k+7:8k]`, byte 0 first. -/
def Obligations.TransportIsLittleEndian : Prop :=
  ∀ (w : Word) (rest : List Byte),
    (∀ k < 8, (bytesOfWord w)[k]? = some (w.extractLsb' (8 * k) 8)) ∧ (bytesOfWord w).length = 8 ∧
    decodeBytes (bytesOfWord w ++ rest) = (decode w).map fun i => (i, rest)

/-- 30_encoding.md R69, R71: the words of a line that assembles decode to the commands the line stands for. -/
def Obligations.AssembledLinesDecode : Prop :=
  ∀ (line : List Char) (is : List Instr), parseLine line = .ok is →
    ∃ ws, assembleLine line = .ok ws ∧ ws.map decode = is.map Except.ok

/-- 30_encoding.md R70 (1): `rgb(r5, g6, b5)` packs its three values, and a value out of range is an error. -/
def Obligations.RgbOperandPacksItsChannels : Prop :=
  (∀ r g b : Nat, r ≤ 31 → g ≤ 63 → b ≤ 31 →
    ∃ c, rgbColor r g b = .ok c ∧ (red5 c).toNat = r ∧ (grn6 c).toNat = g ∧ (blu5 c).toNat = b) ∧
  ∀ r g b : Int, ¬ (0 ≤ r ∧ r ≤ 31 ∧ 0 ≤ g ∧ g ≤ 63 ∧ 0 ≤ b ∧ b ≤ 31) → rgbColor r g b = .error .outOfRange

/-! ### The coordinate map and the cells -/

/-- 20_memory.md R41: the map row by row, its domain, and that it is a bijection onto the cells. -/
def Obligations.CoordinateMapIsBijective : Prop :=
  (∀ x y : Int, 0 ≤ x → x < 64 → 0 ≤ y → y < 16 →
    ∃ a, mapCoord x y = some a ∧ a.half = .upper ∧ (a.row.val : Int) = y ∧ (a.col.val : Int) = x) ∧
  (∀ x y : Int, 0 ≤ x → x < 64 → 16 ≤ y → y < 32 →
    ∃ a, mapCoord x y = some a ∧ a.half = .lower ∧ (a.row.val : Int) = y - 16 ∧ (a.col.val : Int) = x) ∧
  (∀ x y : Int, ¬ (0 ≤ x ∧ x < 64 ∧ 0 ≤ y ∧ y < 32) → mapCoord x y = none) ∧
  ∀ a : FbAddr, ∃! p : Int × Int, mapCoord p.1 p.2 = some a

/-- 20_memory.md R46: a cell write sets that cell and no other, the second write to a cell stays, and writing what the
cell holds changes nothing. -/
def Obligations.CellWritesReplaceOneCell : Prop :=
  ∀ (m : Mem) (a : FbAddr) (c d : Color), m.wf →
    (m.writeCell a c).wf ∧ (m.writeCell a c).readCell a = c ∧
    (∀ b, b ≠ a → (m.writeCell a c).readCell b = m.readCell b) ∧
    (m.writeCell a c).writeCell a d = m.writeCell a d ∧
    m.writeCell a (m.readCell a) = m

/-! ### The quantizer -/

/-- 40_quantizer_framebuffer.md R75: the indices are `(value + 1) * scale - 1`, without clamping. -/
def Obligations.LutIndicesFollowTheFormula : Prop :=
  (∀ v : BitVec 5, (idx5 v).val = (v.toNat + 1) * 8 - 1 ∧ 7 ≤ (idx5 v).val ∧ (idx5 v).val ≤ 255) ∧
  (∀ v : BitVec 6, (idx6 v).val = (v.toNat + 1) * 4 - 1 ∧ 3 ≤ (idx6 v).val ∧ (idx6 v).val ≤ 255) ∧
  ∀ c : Rgb565, (red5 c).toNat = c.toNat / 2048 ∧ (grn6 c).toNat = c.toNat / 32 % 64 ∧ (blu5 c).toNat = c.toNat % 32

/-- 40_quantizer_framebuffer.md R78 (d), (e), with R73 L3: the two extreme colours, through every lawful table. -/
def Obligations.ExtremeColoursQuantize : Prop :=
  ∀ lut : Lut, lut.Lawful →
    quantize lut 0xFFFF = ⟨255, 255, 255⟩ ∧
    quantize lut 0x0000 = ⟨lut[(7 : Fin 256)], lut[(3 : Fin 256)], lut[(7 : Fin 256)]⟩

/-- 40_quantizer_framebuffer.md R73: the table that construction leaves is lawful. The table itself is a parameter
(log entry 4). -/
def Obligations.GammaMeetsItsLaws : Prop := Config.gamma.Lawful

/-! ### WRPIX, WIPE, BBOX -/

/-- 40_quantizer_framebuffer.md R78, R76: inside the box, WRPIX completes, replaces the cell by the quantized colour
and answers OK; every other cell, every byte outside the cell and every other field stay. -/
def Obligations.WrpixWritesItsCell : Prop :=
  ∀ (s : State) (x y : Int) (color : Rgb565), s.seq.phase = .idle → s.cfg.constructed = true →
    0 ≤ x → x < 64 → 0 ≤ y → y < 32 →
    ∃ a t, mapCoord x y = some a ∧ exec (.wrpix x y color) s = .next t ∧
      t.fb.readCell a = ⟨s.lut[idx5 (red5 color)], s.lut[idx6 (grn6 color)], s.lut[idx5 (blu5 color)]⟩ ∧
      (∀ b, b ≠ a → t.fb.readCell b = s.fb.readCell b) ∧
      (∀ k, k < a.base ∨ a.base + 2 < k → t.fb.read k = s.fb.read k) ∧
      t = { s with fb := t.fb, responses := s.responses ++ [⟨.ok, 0, none⟩] }

/-- 20_memory.md R42: outside the box WRPIX completes with OK and changes no state of CORE. -/
def Obligations.WrpixOutsideIsDiscarded : Prop :=
  ∀ (s : State) (x y : Int) (color : Rgb565), s.seq.phase = .idle → s.cfg.constructed = true →
    ¬ (0 ≤ x ∧ x < 64 ∧ 0 ≤ y ∧ y < 32) →
    exec (.wrpix x y color) s = .next { s with responses := s.responses ++ [⟨.ok, 0, none⟩] }

/-- 40_quantizer_framebuffer.md R79: the WRPIX words of a DRAW, issued in order, all complete with OK, and each cell
ends with the colour of the last pair that maps to it. -/
def Obligations.DrawKeepsTheLastPair : Prop :=
  ∀ (s : State) (pts : List (Int × Int × Rgb565)) (rest : List Word), s.coreMoves → s.seq.phase = .idle →
    s.cfg.constructed = true →
    (∀ p ∈ pts, (Instr.wrpix p.1 p.2.1 p.2.2).wellFormed = true) →
    s.hostIn = (pts.map fun p => encode (.wrpix p.1 p.2.1 p.2.2)) ++ rest →
    ∃ t : State, core.run pts.length s = .next t ∧
      (∀ a, t.fb.readCell a =
        match pts.reverse.find? fun p => mapCoord p.1 p.2.1 == some a with
        | some p => quantize s.lut p.2.2
        | none => s.fb.readCell a) ∧
      t = { s with
        fb := t.fb
        hostIn := rest
        responses := s.responses ++ List.replicate pts.length ⟨.ok, 0, none⟩ }

/-- 40_quantizer_framebuffer.md R80: WIPE completes with OK, leaves every cell (0,0,0), and changes no line, panel
buffer, sequencer or configuration. -/
def Obligations.WipeBlackensEveryCell : Prop :=
  ∀ s : State, s.seq.phase = .idle → s.cfg.constructed = true →
    ∃ t, exec .wipe s = .next t ∧ (∀ a, t.fb.readCell a = ⟨0, 0, 0⟩) ∧
      t = { s with fb := t.fb, responses := s.responses ++ [⟨.ok, 0, none⟩] } ∧
      ∃ u, exec .wipe t = .next u ∧ u.fb = t.fb

/-- 40_quantizer_framebuffer.md R80's pseudocode: writing (0,0,0) to every cell, in whatever order, is what WIPE
does. -/
def Obligations.WipeIsEveryCellWrite : Prop :=
  ∀ (s : State) (cells : List FbAddr), s.seq.phase = .idle → s.cfg.constructed = true → s.fb.wf →
    (∀ a, a ∈ cells) →
    exec .wipe s = .next { s with
      fb := cells.foldl (fun m a => m.writeCell a Color.black) s.fb
      responses := s.responses ++ [⟨.ok, 0, none⟩] }

/-- 40_quantizer_framebuffer.md R81, 30_encoding.md R67: BBOX answers the rectangle and changes nothing else. -/
def Obligations.BboxReturnsTheRectangle : Prop :=
  ∀ s : State, s.seq.phase = .idle → s.cfg.constructed = true →
    ∃ d : BitVec 64, exec .bbox s = .next { s with responses := s.responses ++ [⟨.ok, d, none⟩] } ∧
      d = 0x0020004000000000#64 ∧ d.extractLsb' 0 16 = 0 ∧ d.extractLsb' 16 16 = 0 ∧
      d.extractLsb' 32 16 = 64 ∧ d.extractLsb' 48 16 = 32

/-! ### OUTPUT and the host port -/

/-- 42_scan_engine.md R101: OUTPUT completes its acceptance by starting the pass at row 0, plane 0, column 0, wherever
the last pass stopped, and issues no call. -/
def Obligations.OutputStartsThePass : Prop :=
  ∀ s : State, s.seq.phase = .idle → s.cfg.constructed = true →
    exec .output s = .next { s with seq := ⟨.row, 0, 0, 0⟩ }

/-- 10_state.md R31, 20_memory.md R48: while a pass is in progress no command is taken. That `exec` then answers the
same state is the model's choice (log entry 18). -/
def Obligations.PassBlocksTheHostPort : Prop :=
  ∀ s : State, s.seq.phase ≠ .idle →
    (∀ i, exec i s = .next s) ∧
    ∀ t, step s = .next t → t.hostIn = s.hostIn

/-- 60_exceptions.md R115: an instance that was not constructed answers NOT_CONSTRUCTED to every word, with no other
effect, and a run of it is one no claim holds of. -/
def Obligations.UnconstructedInstanceIsInert : Prop :=
  ∀ s : State, s.cfg.constructed = false → s.seq.phase = .idle → s.faulted = true ∧
    (∀ i, exec i s = .next { s with responses := s.responses ++ [⟨.notConstructed, 0, none⟩] }) ∧
    ∀ w rest, s.hostIn = w :: rest →
      step s = .next { s with hostIn := rest, responses := s.responses ++ [⟨.notConstructed, 0, none⟩] }

/-- 30_encoding.md R62, 20_memory.md R48: where the turn is CORE's and the port is free, the step takes the next word
off the host's stream and runs the command it decodes to. -/
def Obligations.StepRunsTheDecodedInstr : Prop :=
  ∀ (s : State) (w : Word) (rest : List Word) (i : Instr), s.seq.phase = .idle → s.hostIn = w :: rest →
    decode w = .ok i →
    (s.coreMoves → step s = exec i { s with hostIn := rest }) ∧
    ∀ ts, s.writerMayMove = true → s.turns = .core :: ts →
      step s = exec i { s with hostIn := rest, turns := ts }

/-- Log entry 1: the word that `withFetchWord` places is the one the very next step runs, at a free, constructed
instance with the state otherwise as it was. -/
def Obligations.PlacedWordRunsNext : Prop :=
  ∀ (s : State) (w : Word) (i : Instr), decode w = .ok i →
    step (s.withFetchWord 64 w.toNat) = exec i { s with
      seq := { s.seq with phase := .idle }
      cfg := { s.cfg with constructed := true } }

/-- 42_scan_engine.md R92: with no command and no pass, nothing happens; CORE starts no pass by itself. -/
def Obligations.IdleCoreWaits : Prop :=
  ∀ s : State, s.coresTurn → s.seq.phase = .idle → s.hostIn = [] → step s = .next { s with turns := s.turnsLeft }

/-- 60_exceptions.md R112 to R117: CORE has no trap; every command and every step answers a next state. -/
def Obligations.NothingEverStops : Prop :=
  (∀ i s, ∃ t, exec i s = .next t) ∧ ∀ s, ∃ t, step s = .next t

/-- 30_encoding.md R65, 20_memory.md R48: a step neither loses nor invents a command; every word is answered once.
That a turn of the second writer adds no response is the model's choice (log entry 16). -/
def Obligations.EveryCommandIsAnsweredOnce : Prop :=
  ∀ s t : State, step s = .next t → t.commandCount = s.commandCount

/-- 30_encoding.md R66: the code of each status, and what produces a response of that status. A turn of the second
writer produces none, which is the model's choice (log entry 16). -/
def Obligations.StatusCodesNameTheirCauses : Prop :=
  Status.ok.code = 0x00 ∧ Status.extErr.code = 0x01 ∧ Status.illegal.code = 0x02 ∧ Status.notConstructed.code = 0x03 ∧
  ∀ (s t : State) (r : Response), step s = .next t → t.responses = s.responses ++ [r] →
    s.coresTurn ∧
    match r.status with
    | .ok =>
      (s.seq.phase = .idle ∧ s.cfg.constructed = true ∧
        ∃ w rest i, s.hostIn = w :: rest ∧ decode w = .ok i ∧ i ≠ .output) ∨
      (s.seq.phase = .showing ∧ s.seq.row.val = 15 ∧ s.cfg.bits ≤ s.seq.plane.val + 1 ∧ s.nextAnswer = .ok)
    | .extErr => s.seq.phase ≠ .idle ∧ ∃ e, s.nextAnswer = .err e ∧ r.errval = some e
    | .illegal =>
      s.seq.phase = .idle ∧ s.cfg.constructed = true ∧ ∃ w rest e, s.hostIn = w :: rest ∧ decode w = .error e
    | .notConstructed => s.seq.phase = .idle ∧ s.cfg.constructed = false ∧ ∃ w rest, s.hostIn = w :: rest

/-! ### The scan engine -/

/-- 42_scan_engine.md R103: the successor table. The order of the columns and of the two halves is the spec's own choice
(92_eei_decisions.md D11, D12). -/
def Obligations.SuccessorTable : Prop :=
  ∀ (bits : Nat) (row : Fin 16) (plane : Fin 8) (col : Fin 64), 1 ≤ bits → bits ≤ 8 → plane.val < bits →
    Seq.succ bits ⟨.row, row, plane, col⟩ = ⟨.colorU, row, 0, 0⟩ ∧
    Seq.succ bits ⟨.colorU, row, plane, col⟩ = ⟨.colorL, row, plane, col⟩ ∧
    Seq.succ bits ⟨.colorL, row, plane, col⟩ = ⟨.shift, row, plane, col⟩ ∧
    (∀ col' : Fin 64, col'.val = col.val + 1 →
      Seq.succ bits ⟨.shift, row, plane, col⟩ = ⟨.colorU, row, plane, col'⟩) ∧
    (col.val = 63 → Seq.succ bits ⟨.shift, row, plane, col⟩ = ⟨.latch, row, plane, col⟩) ∧
    Seq.succ bits ⟨.latch, row, plane, col⟩ = ⟨.showing, row, plane, col⟩ ∧
    (∀ plane' : Fin 8, plane'.val = plane.val + 1 → plane.val < bits - 1 →
      Seq.succ bits ⟨.showing, row, plane, col⟩ = ⟨.colorU, row, plane', 0⟩) ∧
    (∀ row' : Fin 16, row'.val = row.val + 1 → plane.val = bits - 1 →
      Seq.succ bits ⟨.showing, row, plane, col⟩ = ⟨.row, row', 0, 0⟩) ∧
    (plane.val = bits - 1 → row.val = 15 →
      Seq.succ bits ⟨.showing, row, plane, col⟩ = ⟨.idle, row, plane, col⟩)

/-- 42_scan_engine.md R102: a step of the scan engine issues exactly the one call that SEQ names, consumes one answer,
and leaves the framebuffer, the table, the configuration and the host's words. -/
def Obligations.ScanStepIssuesOneCall : Prop :=
  ∀ s : State, s.coresTurn → s.seq.phase ≠ .idle →
    ∃ k t, s.nextCall = some k ∧ step s = .next t ∧ t.trace = s.trace ++ [⟨k, s.nextAnswer⟩] ∧
      t.answers = s.answers.tail ∧ t.draws = s.draws + 1 ∧
      t.fb = s.fb ∧ t.lut = s.lut ∧ t.cfg = s.cfg ∧ t.concurrentWrites = s.concurrentWrites ∧
      t.hostIn = s.hostIn ∧ t.turns = s.turnsLeft ∧ t.wiping = s.wiping

/-- 42_scan_engine.md R95: `RowSet(row)` returning `ok` drives line `i` with bit `i` of the row address. -/
def Obligations.RowSetDrivesTheRowLines : Prop :=
  ∀ (s : State) (rest : List Resp), s.coresTurn → s.seq.phase = .row → s.answers = .ok :: rest →
    ∃ t, step s = .next t ∧ t.seq = ⟨.colorU, s.seq.row, 0, 0⟩ ∧
      (∀ i < 4, t.pins.rowsel.getLsbD i = s.seq.row.val.testBit i) ∧
      t.pins = { s.pins with rowsel := t.pins.rowsel } ∧
      t = { s with
        seq := t.seq
        pins := t.pins
        answers := rest
        turns := s.turnsLeft
        draws := s.draws + 1
        trace := s.trace ++ [⟨.rowSet s.seq.row, .ok⟩] }

/-- 42_scan_engine.md R96: `ColorSet` returning `ok` puts bit `mask + 8 - BITS` of each channel of its half's cell on
that half's lines, and moves nothing else. -/
def Obligations.ColorSetPresentsThePlaneBit : Prop :=
  ∀ (s : State) (rest : List Resp) (h : Half), s.coresTurn → s.cfgLegal → s.seqLegal →
    s.seq.phase = (match h with | .upper => Phase.colorU | .lower => Phase.colorL) → s.answers = .ok :: rest →
    ∃ t cell pos, cell = s.fb.readCell ⟨h, s.seq.row, s.seq.col⟩ ∧
      pos + s.cfg.bits = s.seq.plane.val + 8 ∧ pos ≤ 7 ∧ step s = .next t ∧
      t.pins = (match h with
        | .upper => { s.pins with rgbU := ⟨cell.r.getLsbD pos, cell.g.getLsbD pos, cell.b.getLsbD pos⟩ }
        | .lower => { s.pins with rgbL := ⟨cell.r.getLsbD pos, cell.g.getLsbD pos, cell.b.getLsbD pos⟩ }) ∧
      t.seq = { s.seq with phase := match h with | .upper => Phase.colorL | .lower => Phase.shift } ∧
      t = { s with
        seq := t.seq
        pins := t.pins
        answers := rest
        turns := s.turnsLeft
        draws := s.draws + 1
        trace := s.trace ++ [⟨.colorSet h cell s.seq.plane, .ok⟩] }

/-- 42_scan_engine.md R97, R109: `Shift()` returning `ok` appends the colour lines of both halves to `PANEL.SR`. Where
the clock line is left is the idle level the spec does not give (log entry 10). -/
def Obligations.ShiftClocksInOneColumn : Prop :=
  ∀ (s : State) (rest : List Resp), s.coresTurn → s.seq.phase = .shift → s.answers = .ok :: rest →
    ∃ t, step s = .next t ∧
      t.panel.sr = s.panel.sr ++ [⟨s.pins.rgbU, s.pins.rgbL⟩] ∧ t.panel.out = s.panel.out ∧
      t.pins = { s.pins with clk := t.pins.clk } ∧
      t.seq = s.seq.succ s.cfg.bits ∧ t.seq.phase ≠ .idle ∧
      t = { s with
        seq := t.seq
        pins := t.pins
        panel := t.panel
        answers := rest
        turns := s.turnsLeft
        draws := s.draws + 1
        trace := s.trace ++ [⟨.shift, .ok⟩] }

/-- 42_scan_engine.md R98, R109: `Latch()` returning `ok` sets `PANEL.OUT` to the last 64 pairs of `PANEL.SR`, oldest
first. -/
def Obligations.LatchTransfersTheLastColumns : Prop :=
  ∀ (s : State) (rest : List Resp), s.coresTurn → s.panelShaped → s.seq.phase = .latch → s.answers = .ok :: rest →
    ∃ t, step s = .next t ∧ t.panel.out.length = 64 ∧
      (∀ k < 64, t.panel.out[k]? = s.panel.sr[s.panel.sr.length - 64 + k]?) ∧ t.panel.sr = s.panel.sr ∧
      t.pins = { s.pins with lat := t.pins.lat } ∧
      t.seq = { s.seq with phase := .showing } ∧
      t = { s with
        seq := t.seq
        pins := t.pins
        panel := t.panel
        answers := rest
        turns := s.turnsLeft
        draws := s.draws + 1
        trace := s.trace ++ [⟨.latch, .ok⟩] }

/-- 42_scan_engine.md R99, R109: `Show(d)` returning `ok` displays `PANEL.OUT` on the selected row pair for
`d = duration(plane)` units and leaves output enable high; after the last plane of row 15 OUTPUT completes with OK. -/
def Obligations.ShowHoldsThePlane : Prop :=
  ∀ (s : State) (rest : List Resp) (d : Nat), s.coresTurn → s.cfgLegal → s.seqLegal → s.seq.phase = .showing →
    s.answers = .ok :: rest → d = 2 ^ s.seq.plane.val * s.cfg.h / (2 ^ s.cfg.bits - 1) →
    ∃ t, step s = .next t ∧ t.pins = { s.pins with oe := true } ∧
      t.display = s.display ++ [⟨s.pins.rowsel, s.panel.out, d⟩] ∧
      t.seq = s.seq.succ s.cfg.bits ∧
      t.responses = s.responses ++
        (if s.seq.plane.val = s.cfg.bits - 1 ∧ s.seq.row.val = 15 then [⟨.ok, 0, none⟩] else []) ∧
      t = { s with
        seq := t.seq
        pins := t.pins
        display := t.display
        responses := t.responses
        answers := rest
        turns := s.turnsLeft
        draws := s.draws + 1
        trace := s.trace ++ [⟨.showFor d, .ok⟩] }

/-- 60_exceptions.md R114, 42_scan_engine.md R107: a call that returns `err(e)` ends the pass in that step with
`(EXT_ERR, 0, e)`, saves nothing and touches neither the framebuffer nor the configuration. -/
def Obligations.FailedCallAbortsThePass : Prop :=
  ∀ (s : State) (e : Err) (rest : List Resp), s.coresTurn → s.seq.phase ≠ .idle → s.answers = .err e :: rest →
    ∃ k t, s.nextCall = some k ∧ step s = .next t ∧
      t = { s with
        seq := { s.seq with phase := .idle }
        pins := t.pins
        panel := t.panel
        answers := rest
        turns := s.turnsLeft
        draws := s.draws + 1
        responses := s.responses ++ [⟨.extErr, 0, some e⟩]
        trace := s.trace ++ [⟨k, .err e⟩] }

/-- 42_scan_engine.md R108: a failed call leaves alone every field it would not have written. What it leaves on its own
fields is a free value, of which nothing is said. -/
def Obligations.FailedCallKeepsOtherFields : Prop :=
  ∀ (s : State) (e : Err) (rest : List Resp), s.coresTurn → s.seq.phase ≠ .idle → s.answers = .err e :: rest →
    ∃ t, step s = .next t ∧
      match s.seq.phase with
      | .idle => True
      | .row => t.pins = { s.pins with rowsel := t.pins.rowsel } ∧ t.panel = s.panel
      | .colorU => t.pins = { s.pins with rgbU := t.pins.rgbU } ∧ t.panel = s.panel
      | .colorL => t.pins = { s.pins with rgbL := t.pins.rgbL } ∧ t.panel = s.panel
      | .shift => t.pins = { s.pins with clk := t.pins.clk } ∧ t.panel = { s.panel with sr := t.panel.sr }
      | .latch => t.pins = { s.pins with lat := t.pins.lat } ∧ t.panel = { s.panel with out := t.panel.out }
      | .showing => t.pins = { s.pins with oe := t.pins.oe } ∧ t.panel = s.panel

/-- 42_scan_engine.md R110: only a failed `Show` can leave output enable otherwise than high once it is high. -/
def Obligations.OutputEnableStaysHigh : Prop :=
  ∀ s t : State, s.pins.oe = true → step s = .next t →
    t.pins.oe = true ∨ (s.seq.phase = .showing ∧ ∃ e, s.nextAnswer = .err e)

/-- 42_scan_engine.md R105, R104: an OUTPUT whose every call returns `ok` issues exactly the calls of the closed form,
completes with OK, and leaves CORE idle, row 15 selected and output enable high. -/
def Obligations.PassIssuesItsCallsInOrder : Prop :=
  ∀ (s : State), s.coreMoves → s.seq.phase = .idle → s.cfg.constructed = true → s.cfgLegal →
    s.okAhead (callsPerPass s.cfg.bits) →
    ∃ u t : State, exec .output s = .next u ∧ core.run (callsPerPass s.cfg.bits) u = .next t ∧
      t.trace = s.trace ++ (passCalls s.fb s.cfg.bits s.cfg.h).map Call.okEvent ∧
      t.responses = s.responses ++ [⟨.ok, 0, none⟩] ∧
      t.seq.phase = .idle ∧ t.pins.rowsel = 15 ∧ t.pins.oe = true ∧
      t.fb = s.fb ∧ t.lut = s.lut ∧ t.cfg = s.cfg ∧ t.hostIn = s.hostIn ∧
      t.answers = s.answers.drop (callsPerPass s.cfg.bits)

/-- 42_scan_engine.md R109, R96: what the completed Shows of such a pass display: for each row and plane, the plane's bit
of every cell of both halves, column `k` at place `k`, on that row pair, for the plane's duration. That nothing else is
added is the model's choice (log entry 14): a panel whose OE is low before the pass's first Show shows `PANEL.OUT` then
too (R99, 70_reset_and_hazards.md R135), and that adds no frame. -/
def Obligations.PassDisplaysEveryPlane : Prop :=
  ∀ (s : State), s.coreMoves → s.seq.phase = .idle → s.cfg.constructed = true → s.cfgLegal →
    s.okAhead (callsPerPass s.cfg.bits) →
    ∃ u t : State, exec .output s = .next u ∧ core.run (callsPerPass s.cfg.bits) u = .next t ∧
      t.display = s.display ++ passFrames s.fb s.cfg.bits s.cfg.h

/-- 42_scan_engine.md R107: where call `k` of a pass is the first to fail, exactly `k + 1` calls are issued, only the
last of them failed, and OUTPUT completes with the error unmodified. -/
def Obligations.PassAbortsAtTheFirstFailure : Prop :=
  ∀ (s : State) (k : Nat) (e : Err) (rest : List Resp), s.coreMoves → s.seq.phase = .idle → s.cfg.constructed = true →
    s.cfgLegal → k < callsPerPass s.cfg.bits → s.answers = List.replicate k .ok ++ .err e :: rest →
    ∃ (u t : State) (c : Call), exec .output s = .next u ∧ core.run (k + 1) u = .next t ∧
      (passCalls s.fb s.cfg.bits s.cfg.h)[k]? = some c ∧
      t.trace = s.trace ++ ((passCalls s.fb s.cfg.bits s.cfg.h).take k).map Call.okEvent ++ [⟨c, .err e⟩] ∧
      t.responses = s.responses ++ [⟨.extErr, 0, some e⟩] ∧
      t.seq.phase = .idle ∧ t.fb = s.fb ∧ t.cfg = s.cfg ∧ t.hostIn = s.hostIn ∧ t.answers = rest

/-- 42_scan_engine.md R106: the number of calls of a full pass, in all and by kind, and the index of each call. -/
def Obligations.PassCallIndices : Prop :=
  ∀ (m : Mem) (bits h : Nat), 1 ≤ bits → bits ≤ 8 →
    (passCalls m bits h).length = 16 + 3104 * bits ∧
    (passCalls m bits h).countP (fun c => match c with | .rowSet _ => true | _ => false) = 16 ∧
    (passCalls m bits h).countP (fun c => match c with | .colorSet .upper _ _ => true | _ => false) = 1024 * bits ∧
    (passCalls m bits h).countP (fun c => match c with | .colorSet .lower _ _ => true | _ => false) = 1024 * bits ∧
    (passCalls m bits h).countP (fun c => match c with | .shift => true | _ => false) = 1024 * bits ∧
    (passCalls m bits h).countP (fun c => match c with | .latch => true | _ => false) = 16 * bits ∧
    (passCalls m bits h).countP (fun c => match c with | .showFor _ => true | _ => false) = 16 * bits ∧
    ∀ (r : Fin 16) (p : Fin 8) (c : Fin 64), p.val < bits →
      (passCalls m bits h)[r.val * (1 + 194 * bits)]? = some (.rowSet r) ∧
      (passCalls m bits h)[r.val * (1 + 194 * bits) + 1 + p.val * 194 + 3 * c.val]? =
        some (.colorSet .upper (m.readCell ⟨.upper, r, c⟩) p) ∧
      (passCalls m bits h)[r.val * (1 + 194 * bits) + 1 + p.val * 194 + 3 * c.val + 1]? =
        some (.colorSet .lower (m.readCell ⟨.lower, r, c⟩) p) ∧
      (passCalls m bits h)[r.val * (1 + 194 * bits) + 1 + p.val * 194 + 3 * c.val + 2]? = some .shift ∧
      (passCalls m bits h)[r.val * (1 + 194 * bits) + 1 + p.val * 194 + 192]? = some .latch ∧
      (passCalls m bits h)[r.val * (1 + 194 * bits) + 1 + p.val * 194 + 193]? =
        some (.showFor (duration bits h p))

/-! ### The brightness compensator -/

/-- 41_brightness_compensator.md R83: H is the floor of `p · r / (1 − r)` for the exact ratio `r`. -/
def Obligations.CompensationIsTheFloor : Prop :=
  ∀ bits num den : Nat, 0 < num → num < den →
    (compensationH bits num den : Int) =
      ⌊((2 * bits + 1 : ℕ) : ℚ) * ((num : ℚ) / den) / (1 - (num : ℚ) / den)⌋

/-- 41_brightness_compensator.md R88, P1 to P6. -/
def Obligations.DurationsAreBinaryWeighted : Prop :=
  ∀ bits h : Nat, 1 ≤ bits → bits ≤ 8 →
    (∀ m, 2 * duration bits h m ≤ duration bits h (m + 1) ∧ duration bits h m ≤ duration bits h (m + 1)) ∧
    duration bits h 0 ≤ duration bits h (bits - 1) ∧
    (h < ((List.range bits).map (duration bits h)).sum + bits ∧
      ((List.range bits).map (duration bits h)).sum ≤ h) ∧
    (bits = 1 → duration bits h 0 = h) ∧
    (h = 0 → ∀ m, duration bits h m = 0) ∧
    (h < 2 ^ bits - 1 → duration bits h 0 = 0) ∧
    ∀ s : State, s.seq.phase = .showing → duration s.cfg.bits s.cfg.h s.seq.plane = 0 →
      s.nextCall = some (.showFor 0)

/-- 41_brightness_compensator.md R89: over the frames of a full pass a channel of value `v` is lit for `lit(v)` units in
all. Only completed Shows count as light, which is the model's choice (log entry 14). -/
def Obligations.PassLightsEachChannelForItsPlanes : Prop :=
  ∀ (m : Mem) (bits h : Nat) (ch : Channel) (a : FbAddr), 1 ≤ bits → bits ≤ 8 →
    litUnits ch a (passFrames m bits h) = litOfValue bits h (ch.value (m.readCell a))

/-- 41_brightness_compensator.md R89: `lit(v) ≤ q · H / (2^BITS − 1)`, with equality where no floor loses anything. -/
def Obligations.LitTimeIsProportional : Prop :=
  ∀ (bits h : Nat) (v : Byte), 1 ≤ bits → bits ≤ 8 →
    litOfValue bits h v * (2 ^ bits - 1) ≤ displayedValue bits v * h ∧
    ((2 ^ bits - 1) ∣ h → litOfValue bits h v * (2 ^ bits - 1) = displayedValue bits v * h)

/-- 70_reset_and_hazards.md R136: the waits of a full pass. The amounts are parameters (log entry 19). -/
def Obligations.PassWaitsAddUp : Prop :=
  ∀ (m : Mem) (bits h : Nat), 1 ≤ bits → bits ≤ 8 →
    ((passCalls m bits h).map callWait).sum =
      1024 * bits * (Config.tShiftA + Config.tShiftB) + 16 * bits * Config.latchTiming +
        16 * ((List.range bits).map (duration bits h)).sum * Config.delayUnit

/-! ### Construction -/

/-- 70_reset_and_hazards.md R127: construction succeeds exactly on a legal bit depth and on-ratio. -/
def Obligations.ConstructionSucceedsExactly : Prop :=
  ∀ (bits num : Int) (den : Nat), (construct bits num den).cfg.constructed = true ↔
    (1 ≤ bits ∧ bits ≤ 8) ∧ 0 < den ∧ 0 < num ∧ num < (den : Int)

/-- 70_reset_and_hazards.md R126, 10_state.md R37: what a successful construction leaves. The lines hold the parameter
PIN_INIT (log entry 6); the panel buffers, which the spec leaves unknown, hold 64 pairs of which nothing is said
(log entry 7). -/
def Obligations.ConstructionLeavesTheResetTable : Prop :=
  ∀ (bits num : Int) (den : Nat) (s : State), 1 ≤ bits → bits ≤ 8 → 0 < num → num < (den : Int) →
    s = construct bits num den →
    (∀ a, s.fb.readCell a = ⟨0, 0, 0⟩) ∧ s.lut = Config.gamma ∧ (s.cfg.bits : Int) = bits ∧
    (s.cfg.h : Int) = (2 * bits + 1) * num / (den - num) ∧ s.cfg.constructed = true ∧
    s.seq = ⟨.idle, 0, 0, 0⟩ ∧ s.pins = Config.pinInit ∧ s.panel.out.length = 64 ∧ s.trace = [] ∧ s.responses = []

/-- 10_state.md R37: the reset state is what a construction with this instance's legal inputs leaves. The inputs are
parameters (log entry 5). -/
def Obligations.ResetIsALegalConstruction : Prop :=
  constructOk Config.bits Config.ratioNum Config.ratioDen = true ∧
  State.reset = construct Config.bits Config.ratioNum Config.ratioDen

/-! ### The whole machine -/

/-- The invariant holds after construction (10_state.md R37, with log entries 4, 5, 7, 12). -/
def Obligations.ResetMeetsTheInvariant : Prop := State.reset.Inv

/-- Every step keeps the invariant: the canonical framebuffer (the model's form, log entry 12), the lawful table, the
legal configuration, the sequencer's limits (10_state.md R31, R32) and the shape of every response (30_encoding.md
R65). That the panel's buffers keep 64 pairs, after a failed Shift or Latch too, is the model's choice (log entries 7,
8), where the spec calls their contents unknown (10_state.md R36, 42_scan_engine.md R108). -/
def Obligations.StepKeepsTheInvariant : Prop :=
  ∀ s t : State, s.Inv → step s = .next t → t.Inv

/-- 10_state.md R24, R25, R26: no step changes the table, the configuration or the instance's parameter. -/
def Obligations.ConfigurationNeverChanges : Prop :=
  ∀ s t : State, step s = .next t → t.lut = s.lut ∧ t.cfg = s.cfg ∧ t.concurrentWrites = s.concurrentWrites

/-- 10_state.md R22, 20_memory.md R51, R52: a step that changes the framebuffer is a turn of the second writer that
writes a cell, or CORE's own step, outside a pass, that runs a WIPE or a WRPIX inside the box. -/
def Obligations.OnlyWritersChangeTheFramebuffer : Prop :=
  ∀ s t : State, step s = .next t → t.fb ≠ s.fb →
    (s.writerMayMove = true ∧ ∃ turn ts, s.turns = turn :: ts ∧
      ((∃ x y color a, turn = .wrpix x y color ∧ mapCoord x y = some a) ∨
        ∃ k a, turn = .wipeCell k ∧ s.wiping[k]? = some a)) ∨
    (s.coresTurn ∧ s.seq.phase = .idle ∧ s.cfg.constructed = true ∧ ∃ w rest, s.hostIn = w :: rest ∧
      (decode w = .ok .wipe ∨ ∃ x y color a, decode w = .ok (.wrpix x y color) ∧ mapCoord x y = some a))

/-- 20_memory.md R52: with CONCURRENT_WRITES, on its turn the second writer writes one whole cell between two steps of
CORE, during a pass too, and changes no other cell or line; on CORE's turn CORE steps. The model's choices (log entry
16) are that it may also move while CORE is idle, that a WIPE may start while cells of an earlier one are pending, that
a number with no pending cell does nothing, and that no turn of it returns a response. -/
def Obligations.SecondWriterWritesOneCell : Prop :=
  ∀ (s : State) (ts : List WriterTurn), s.concurrentWrites = true → s.cfg.constructed = true →
    (∀ x y color a, s.turns = .wrpix x y color :: ts → mapCoord x y = some a →
      ∃ t, step s = .next t ∧ t.fb.readCell a = quantize s.lut color ∧
        (∀ b, b ≠ a → t.fb.readCell b = s.fb.readCell b) ∧ t = { s with fb := t.fb, turns := ts }) ∧
    (∀ k a, s.turns = .wipeCell k :: ts → s.wiping[k]? = some a →
      ∃ t, step s = .next t ∧ t.fb.readCell a = ⟨0, 0, 0⟩ ∧
        (∀ b, b ≠ a → t.fb.readCell b = s.fb.readCell b) ∧
        t = { s with fb := t.fb, turns := ts, wiping := s.wiping.eraseIdx k }) ∧
    (s.turns = .startWipe :: ts →
      ∃ cells : List FbAddr, (∀ a, a ∈ cells) ∧ cells.length = 2048 ∧
        step s = .next { s with turns := ts, wiping := s.wiping ++ cells }) ∧
    (∀ k, s.turns = .wipeCell k :: ts → s.wiping[k]? = none → step s = .next { s with turns := ts }) ∧
    (∀ x y color, s.turns = .wrpix x y color :: ts → mapCoord x y = none → step s = .next { s with turns := ts }) ∧
    (s.turns = .core :: ts → step s = coreStep { s with turns := ts })

/-- 42_scan_engine.md R94, 60_exceptions.md R114: CORE never inspects an error value: renaming the errors in what is to
come and in what was observed commutes with a step. Its answer is one fixed beforehand. -/
def Obligations.ErrorValuesAreNeverInspected : Prop :=
  ∀ (f : Err → Err) (s : State), s.answers ≠ [] →
    ∃ t, step s = .next t ∧ step (s.mapErr f) = .next (t.mapErr f)

/-- 20_memory.md R49, 42_scan_engine.md R106: a completed WRPIX is seen by the next OUTPUT: at every plane, the colour
call of the pixel's own row, column and half, which stands at its index in the pass (one later for the lower half),
carries the quantized colour. -/
def Obligations.WrittenPixelReachesTheNextPass : Prop :=
  ∀ (s : State) (x y : Int) (color : Rgb565) (a : FbAddr) (p : Fin 8), s.coreMoves → s.seq.phase = .idle →
    s.cfg.constructed = true → s.cfgLegal → mapCoord x y = some a → p.val < s.cfg.bits →
    s.okAhead (callsPerPass s.cfg.bits) →
    ∃ v u t : State, exec (.wrpix x y color) s = .next v ∧ exec .output v = .next u ∧
      core.run (callsPerPass s.cfg.bits) u = .next t ∧
      (t.trace.drop s.trace.length)[colorIndex s.cfg.bits a.row.val p.val a.col.val + a.half.index]? =
        some ⟨.colorSet a.half (quantize s.lut color) p, .ok⟩
end

