-- ==== Sys2Proof/Laws/Mem.lean ====
section
/-! SUPPORT. The framebuffer's bytes: read after write, the canonical form, and that a canonical listing is determined
by what it reads as. -/

namespace Sys2Proof.Machine

/-! ### One byte -/

@[simp] theorem Mem.read_nil (a : Nat) : Mem.read [] a = 0 := rfl

theorem Mem.read_cons (p : Host.Cell) (m : Mem) (a : Nat) :
    Mem.read (p :: m) a = if a = p.1 then p.2 else Mem.read m a := by
  obtain ⟨k, v⟩ := p
  by_cases h : a = k
  · simp [Mem.read, h]
  · have : (a == k) = false := by simp [h]
    simp [Mem.read, List.lookup_cons, h, this]

theorem Mem.read_without (m : Mem) (a b : Nat) :
    (m.without a).read b = if b = a then 0 else m.read b := by
  induction m with
  | nil => simp [Mem.without]
  | cons p m ih =>
    simp only [Mem.without, List.filter_cons] at ih ⊢
    by_cases hp : p.1 = a
    · simp only [hp, bne_self_eq_false, Bool.false_eq_true, if_false, ih, Mem.read_cons]
      by_cases hb : b = a <;> simp [hb]
    · have : (p.1 != a) = true := by simp [hp]
      simp only [this, if_true, Mem.read_cons, ih]
      by_cases hb : b = p.1
      · simp [hb, hp]
      · simp [hb]

theorem Mem.read_insertAt (a : Nat) (v : Byte) (m : Mem) (hm : ∀ p ∈ m, p.1 ≠ a) (b : Nat) :
    (Mem.insertAt a v m).read b = if b = a then v else m.read b := by
  induction m with
  | nil => simp [Mem.insertAt, Mem.read_cons]
  | cons p m ih =>
    have hne : p.1 ≠ a := hm p (by simp)
    have hm' : ∀ q ∈ m, q.1 ≠ a := fun q hq => hm q (by simp [hq])
    simp only [Mem.insertAt]
    split
    · simp [Mem.read_cons]
    · simp only [Mem.read_cons, ih hm']
      by_cases hb : b = p.1
      · simp [hb, hne]
      · simp [hb]

theorem Mem.without_avoids (m : Mem) (a : Nat) : ∀ p ∈ m.without a, p.1 ≠ a := by
  intro p hp
  simpa [Mem.without] using (List.mem_filter.1 hp).2

/-- What a write of one byte does to every read. It holds of every listing, canonical or not. -/
@[simp] theorem Mem.read_write (m : Mem) (a : Nat) (v : Byte) (b : Nat) :
    (m.write a v).read b = if b = a then v else m.read b := by
  unfold Mem.write
  split
  · rename_i hv; simp [Mem.read_without, hv]
  · rw [Mem.read_insertAt a v _ (m.without_avoids a) b, Mem.read_without]
    by_cases hb : b = a <;> simp [hb]

/-! ### The canonical form -/

theorem Mem.without_wf {m : Mem} (h : m.wf) (a : Nat) : Mem.wf (m.without a) :=
  ⟨h.1.filter _, fun p hp => h.2 p (List.mem_filter.1 hp).1⟩

theorem Mem.mem_insertAt {a : Nat} {v : Byte} {m : Mem} {p : Host.Cell} :
    p ∈ Mem.insertAt a v m ↔ p = (a, v) ∨ p ∈ m := by
  induction m with
  | nil => simp [Mem.insertAt]
  | cons q m ih =>
    simp only [Mem.insertAt]
    split
    · simp
    · simp only [List.mem_cons, ih]; tauto

theorem Mem.insertAt_wf {m : Mem} (h : m.wf) {a : Nat} {v : Byte} (hv : v ≠ 0) (ha : a < fbBytes)
    (hm : ∀ p ∈ m, p.1 ≠ a) : Mem.wf (Mem.insertAt a v m) := by
  refine ⟨?_, fun p hp => ?_⟩
  · obtain ⟨hs, -⟩ := h
    induction m with
    | nil => simp [Mem.insertAt]
    | cons q m ih =>
      have hq : q.1 ≠ a := hm q (by simp)
      rw [List.pairwise_cons] at hs
      simp only [Mem.insertAt]
      split
      · rename_i hlt
        refine List.pairwise_cons.2 ⟨fun p hp => ?_, List.pairwise_cons.2 hs⟩
        rcases List.mem_cons.1 hp with rfl | hp
        · exact hlt
        · exact lt_trans hlt (hs.1 p hp)
      · rename_i hlt
        refine List.pairwise_cons.2 ⟨fun p hp => ?_, ih (fun p hp => hm p (by simp [hp])) hs.2⟩
        rcases Mem.mem_insertAt.1 hp with rfl | hp
        · show q.1 < a; omega
        · exact hs.1 p hp
  · rcases Mem.mem_insertAt.1 hp with rfl | hp
    · exact ⟨hv, ha⟩
    · exact h.2 p hp

/-- Writing a byte inside the framebuffer keeps the canonical form. -/
theorem Mem.write_wf {m : Mem} (h : m.wf) {a : Nat} (ha : a < fbBytes) (v : Byte) : Mem.wf (m.write a v) := by
  unfold Mem.write
  split
  · exact Mem.without_wf h a
  · rename_i hv
    exact Mem.insertAt_wf (Mem.without_wf h a) hv ha (m.without_avoids a)

theorem Mem.nil_wf : Mem.wf [] := ⟨List.Pairwise.nil, by simp⟩

theorem Mem.read_eq_of_mem {m : Mem} (h : m.wf) {p : Host.Cell} (hp : p ∈ m) : m.read p.1 = p.2 := by
  induction m with
  | nil => simp at hp
  | cons q m ih =>
    obtain ⟨hs, hz⟩ := h
    rw [List.pairwise_cons] at hs
    rw [Mem.read_cons]
    rcases List.mem_cons.1 hp with rfl | hp
    · simp
    · have : q.1 < p.1 := hs.1 p hp
      rw [if_neg (by omega)]
      exact ih ⟨hs.2, fun r hr => hz r (by simp [hr])⟩ hp

theorem Mem.read_eq_zero {m : Mem} {a : Nat} (h : ∀ p ∈ m, p.1 ≠ a) : m.read a = 0 := by
  induction m with
  | nil => rfl
  | cons q m ih =>
    rw [Mem.read_cons, if_neg (fun e => h q (by simp) e.symm)]
    exact ih fun p hp => h p (by simp [hp])

/-- Two canonical listings that read alike everywhere are the same listing. -/
theorem Mem.ext_of_wf {m m' : Mem} (h : m.wf) (h' : m'.wf) (hr : ∀ a, m.read a = m'.read a) : m = m' := by
  have sub : ∀ {l l' : Mem}, l.wf → l'.wf → (∀ a, l.read a = l'.read a) → ∀ p ∈ l, p ∈ l' := by
    intro l l' hl hl' hr p hp
    by_contra hc
    have hv : l.read p.1 = p.2 := Mem.read_eq_of_mem hl hp
    by_cases hk : ∀ q ∈ l', q.1 ≠ p.1
    · rw [hr, Mem.read_eq_zero hk] at hv
      exact (hl.2 p hp).1 hv.symm
    · obtain ⟨q, hq, hqk⟩ : ∃ q ∈ l', q.1 = p.1 := by simpa using hk
      have hq' := Mem.read_eq_of_mem hl' hq
      rw [hqk, ← hr, hv] at hq'
      exact hc (by rwa [show p = q from Prod.ext hqk.symm hq'])
  have hs : ∀ {l : Mem}, l.wf → l.Pairwise fun p q : Host.Cell => p.1 < q.1 := fun h => h.1
  refine List.Perm.eq_of_pairwise (le := fun p q : Host.Cell => p.1 < q.1) ?_ (hs h) (hs h') ?_
  · intro p q _ _ h1 h2; omega
  · refine (List.perm_ext_iff_of_nodup ?_ ?_).2 fun p => ⟨sub h h' hr p, sub h' h (fun a => (hr a).symm) p⟩
    · exact (hs h).imp fun hlt e => by rw [e] at hlt; omega
    · exact (hs h').imp fun hlt e => by rw [e] at hlt; omega

/-! ### One cell -/

theorem FbAddr.base_lt (a : FbAddr) : a.base + 2 < fbBytes := by
  obtain ⟨h, r, c⟩ := a
  have := r.isLt; have := c.isLt
  show _ < 6144
  cases h <;> simp only [FbAddr.base, Half.index] <;> omega

/-- Different cells have different addresses, and a cell's three addresses lie between those of its neighbours. -/
theorem FbAddr.base_inj {a b : FbAddr} (h : a.base = b.base) : a = b := by
  obtain ⟨ha, ra, ca⟩ := a
  obtain ⟨hb, rb, cb⟩ := b
  have := ra.isLt; have := ca.isLt; have := rb.isLt; have := cb.isLt
  cases ha <;> cases hb <;> simp only [FbAddr.base, Half.index] at h <;>
    first
    | (exfalso; omega)
    | (obtain ⟨h1, h2⟩ : ra = rb ∧ ca = cb := ⟨Fin.ext (by omega), Fin.ext (by omega)⟩; rw [h1, h2])

theorem FbAddr.base_mod (a : FbAddr) : a.base % 3 = 0 := by simp [FbAddr.base]

/-- What a cell write does to every byte. -/
theorem Mem.read_writeCell (m : Mem) (a : FbAddr) (c : Color) (b : Nat) :
    (m.writeCell a c).read b =
      if b = a.base then c.r else if b = a.base + 1 then c.g else if b = a.base + 2 then c.b else m.read b := by
  simp only [Mem.writeCell, Mem.read_write]
  by_cases h0 : b = a.base
  · subst h0; simp
  · by_cases h1 : b = a.base + 1
    · subst h1; simp
    · simp [h0, h1]

/-- What a cell write does to every cell. -/
theorem Mem.readCell_writeCell (m : Mem) (a b : FbAddr) (c : Color) :
    (m.writeCell a c).readCell b = if b = a then c else m.readCell b := by
  have ha := a.base_mod; have hb := b.base_mod
  by_cases h : b = a
  · subst h; simp [Mem.readCell, Mem.read_writeCell]
  · have hne : b.base ≠ a.base := fun e => h (FbAddr.base_inj e)
    simp only [Mem.readCell, Mem.read_writeCell, if_neg h]
    congr 1 <;> rw [if_neg (by omega), if_neg (by omega), if_neg (by omega)]

/-- A cell write keeps the canonical form. -/
theorem Mem.writeCell_wf {m : Mem} (h : m.wf) (a : FbAddr) (c : Color) : Mem.wf (m.writeCell a c) := by
  have := a.base_lt
  exact Mem.write_wf (Mem.write_wf (Mem.write_wf h (by omega) _) (by omega) _) (by omega) _

@[simp] theorem Mem.readCell_nil (a : FbAddr) : Mem.readCell [] a = Color.black := rfl

theorem mem_allCells (a : FbAddr) : a ∈ allCells := by
  obtain ⟨h, r, c⟩ := a
  cases h <;> simp [allCells]

/-- Every byte of the framebuffer belongs to a cell. -/
theorem exists_cell_of_lt {b : Nat} (h : b < fbBytes) :
    ∃ a : FbAddr, b = a.base ∨ b = a.base + 1 ∨ b = a.base + 2 := by
  refine ⟨⟨if b / 3 / 1024 = 0 then .upper else .lower, ⟨b / 3 / 64 % 16, by omega⟩, ⟨b / 3 % 64, by omega⟩⟩, ?_⟩
  have h' : b < 6144 := h
  by_cases hu : b / 3 / 1024 = 0
  · simp only [FbAddr.base, Half.index, hu, if_true]; omega
  · simp only [FbAddr.base, Half.index, hu, if_false]; omega

/-- A canonical framebuffer is determined by its cells. -/
theorem Mem.ext_of_cells {m m' : Mem} (h : m.wf) (h' : m'.wf) (hr : ∀ a, m.readCell a = m'.readCell a) : m = m' := by
  refine Mem.ext_of_wf h h' fun b => ?_
  by_cases hb : b < fbBytes
  · obtain ⟨a, ha⟩ := exists_cell_of_lt hb
    have hc := hr a
    simp only [Mem.readCell, Color.mk.injEq] at hc
    rcases ha with rfl | rfl | rfl
    · exact hc.1
    · exact hc.2.1
    · exact hc.2.2
  · have out : ∀ {l : Mem}, l.wf → l.read b = 0 := fun hl =>
      Mem.read_eq_zero fun p hp e => hb (e ▸ (hl.2 p hp).2)
    rw [out h, out h']

end Sys2Proof.Machine
end

