-- ==== Sys2Proof/Laws/State.lean ====
section
/-! SUPPORT. For each update of the state (Machine/Ops.lean), what every field is after it. All true by unfolding, so
that no later proof unfolds a record update. -/

namespace Sys2Proof.Machine.State

variable (s : State)

@[simp] theorem setFb_fb (m : Mem) : (s.setFb m).fb = m := rfl
@[simp] theorem setFb_lut (m : Mem) : (s.setFb m).lut = s.lut := rfl
@[simp] theorem setFb_cfg (m : Mem) : (s.setFb m).cfg = s.cfg := rfl
@[simp] theorem setFb_concurrentWrites (m : Mem) : (s.setFb m).concurrentWrites = s.concurrentWrites := rfl
@[simp] theorem setFb_seq (m : Mem) : (s.setFb m).seq = s.seq := rfl
@[simp] theorem setFb_pins (m : Mem) : (s.setFb m).pins = s.pins := rfl
@[simp] theorem setFb_panel (m : Mem) : (s.setFb m).panel = s.panel := rfl
@[simp] theorem setFb_hostIn (m : Mem) : (s.setFb m).hostIn = s.hostIn := rfl
@[simp] theorem setFb_answers (m : Mem) : (s.setFb m).answers = s.answers := rfl
@[simp] theorem setFb_draws (m : Mem) : (s.setFb m).draws = s.draws := rfl
@[simp] theorem setFb_turns (m : Mem) : (s.setFb m).turns = s.turns := rfl
@[simp] theorem setFb_wiping (m : Mem) : (s.setFb m).wiping = s.wiping := rfl
@[simp] theorem setFb_responses (m : Mem) : (s.setFb m).responses = s.responses := rfl
@[simp] theorem setFb_trace (m : Mem) : (s.setFb m).trace = s.trace := rfl
@[simp] theorem setFb_display (m : Mem) : (s.setFb m).display = s.display := rfl

@[simp] theorem setSeq_fb (q : Seq) : (s.setSeq q).fb = s.fb := rfl
@[simp] theorem setSeq_lut (q : Seq) : (s.setSeq q).lut = s.lut := rfl
@[simp] theorem setSeq_cfg (q : Seq) : (s.setSeq q).cfg = s.cfg := rfl
@[simp] theorem setSeq_concurrentWrites (q : Seq) : (s.setSeq q).concurrentWrites = s.concurrentWrites := rfl
@[simp] theorem setSeq_seq (q : Seq) : (s.setSeq q).seq = q := rfl
@[simp] theorem setSeq_pins (q : Seq) : (s.setSeq q).pins = s.pins := rfl
@[simp] theorem setSeq_panel (q : Seq) : (s.setSeq q).panel = s.panel := rfl
@[simp] theorem setSeq_hostIn (q : Seq) : (s.setSeq q).hostIn = s.hostIn := rfl
@[simp] theorem setSeq_answers (q : Seq) : (s.setSeq q).answers = s.answers := rfl
@[simp] theorem setSeq_draws (q : Seq) : (s.setSeq q).draws = s.draws := rfl
@[simp] theorem setSeq_turns (q : Seq) : (s.setSeq q).turns = s.turns := rfl
@[simp] theorem setSeq_wiping (q : Seq) : (s.setSeq q).wiping = s.wiping := rfl
@[simp] theorem setSeq_responses (q : Seq) : (s.setSeq q).responses = s.responses := rfl
@[simp] theorem setSeq_trace (q : Seq) : (s.setSeq q).trace = s.trace := rfl
@[simp] theorem setSeq_display (q : Seq) : (s.setSeq q).display = s.display := rfl

@[simp] theorem setPins_fb (p : Pins) : (s.setPins p).fb = s.fb := rfl
@[simp] theorem setPins_lut (p : Pins) : (s.setPins p).lut = s.lut := rfl
@[simp] theorem setPins_cfg (p : Pins) : (s.setPins p).cfg = s.cfg := rfl
@[simp] theorem setPins_concurrentWrites (p : Pins) : (s.setPins p).concurrentWrites = s.concurrentWrites := rfl
@[simp] theorem setPins_seq (p : Pins) : (s.setPins p).seq = s.seq := rfl
@[simp] theorem setPins_pins (p : Pins) : (s.setPins p).pins = p := rfl
@[simp] theorem setPins_panel (p : Pins) : (s.setPins p).panel = s.panel := rfl
@[simp] theorem setPins_hostIn (p : Pins) : (s.setPins p).hostIn = s.hostIn := rfl
@[simp] theorem setPins_answers (p : Pins) : (s.setPins p).answers = s.answers := rfl
@[simp] theorem setPins_draws (p : Pins) : (s.setPins p).draws = s.draws := rfl
@[simp] theorem setPins_turns (p : Pins) : (s.setPins p).turns = s.turns := rfl
@[simp] theorem setPins_wiping (p : Pins) : (s.setPins p).wiping = s.wiping := rfl
@[simp] theorem setPins_responses (p : Pins) : (s.setPins p).responses = s.responses := rfl
@[simp] theorem setPins_trace (p : Pins) : (s.setPins p).trace = s.trace := rfl
@[simp] theorem setPins_display (p : Pins) : (s.setPins p).display = s.display := rfl

@[simp] theorem setPanel_fb (p : Panel) : (s.setPanel p).fb = s.fb := rfl
@[simp] theorem setPanel_lut (p : Panel) : (s.setPanel p).lut = s.lut := rfl
@[simp] theorem setPanel_cfg (p : Panel) : (s.setPanel p).cfg = s.cfg := rfl
@[simp] theorem setPanel_concurrentWrites (p : Panel) : (s.setPanel p).concurrentWrites = s.concurrentWrites := rfl
@[simp] theorem setPanel_seq (p : Panel) : (s.setPanel p).seq = s.seq := rfl
@[simp] theorem setPanel_pins (p : Panel) : (s.setPanel p).pins = s.pins := rfl
@[simp] theorem setPanel_panel (p : Panel) : (s.setPanel p).panel = p := rfl
@[simp] theorem setPanel_hostIn (p : Panel) : (s.setPanel p).hostIn = s.hostIn := rfl
@[simp] theorem setPanel_answers (p : Panel) : (s.setPanel p).answers = s.answers := rfl
@[simp] theorem setPanel_draws (p : Panel) : (s.setPanel p).draws = s.draws := rfl
@[simp] theorem setPanel_turns (p : Panel) : (s.setPanel p).turns = s.turns := rfl
@[simp] theorem setPanel_wiping (p : Panel) : (s.setPanel p).wiping = s.wiping := rfl
@[simp] theorem setPanel_responses (p : Panel) : (s.setPanel p).responses = s.responses := rfl
@[simp] theorem setPanel_trace (p : Panel) : (s.setPanel p).trace = s.trace := rfl
@[simp] theorem setPanel_display (p : Panel) : (s.setPanel p).display = s.display := rfl

@[simp] theorem setHostIn_fb (ws : List Word) : (s.setHostIn ws).fb = s.fb := rfl
@[simp] theorem setHostIn_lut (ws : List Word) : (s.setHostIn ws).lut = s.lut := rfl
@[simp] theorem setHostIn_cfg (ws : List Word) : (s.setHostIn ws).cfg = s.cfg := rfl
@[simp] theorem setHostIn_concurrentWrites (ws : List Word) : (s.setHostIn ws).concurrentWrites = s.concurrentWrites := rfl
@[simp] theorem setHostIn_seq (ws : List Word) : (s.setHostIn ws).seq = s.seq := rfl
@[simp] theorem setHostIn_pins (ws : List Word) : (s.setHostIn ws).pins = s.pins := rfl
@[simp] theorem setHostIn_panel (ws : List Word) : (s.setHostIn ws).panel = s.panel := rfl
@[simp] theorem setHostIn_hostIn (ws : List Word) : (s.setHostIn ws).hostIn = ws := rfl
@[simp] theorem setHostIn_answers (ws : List Word) : (s.setHostIn ws).answers = s.answers := rfl
@[simp] theorem setHostIn_draws (ws : List Word) : (s.setHostIn ws).draws = s.draws := rfl
@[simp] theorem setHostIn_turns (ws : List Word) : (s.setHostIn ws).turns = s.turns := rfl
@[simp] theorem setHostIn_wiping (ws : List Word) : (s.setHostIn ws).wiping = s.wiping := rfl
@[simp] theorem setHostIn_responses (ws : List Word) : (s.setHostIn ws).responses = s.responses := rfl
@[simp] theorem setHostIn_trace (ws : List Word) : (s.setHostIn ws).trace = s.trace := rfl
@[simp] theorem setHostIn_display (ws : List Word) : (s.setHostIn ws).display = s.display := rfl

@[simp] theorem setTurns_fb (ts : List WriterTurn) : (s.setTurns ts).fb = s.fb := rfl
@[simp] theorem setTurns_lut (ts : List WriterTurn) : (s.setTurns ts).lut = s.lut := rfl
@[simp] theorem setTurns_cfg (ts : List WriterTurn) : (s.setTurns ts).cfg = s.cfg := rfl
@[simp] theorem setTurns_concurrentWrites (ts : List WriterTurn) : (s.setTurns ts).concurrentWrites = s.concurrentWrites := rfl
@[simp] theorem setTurns_seq (ts : List WriterTurn) : (s.setTurns ts).seq = s.seq := rfl
@[simp] theorem setTurns_pins (ts : List WriterTurn) : (s.setTurns ts).pins = s.pins := rfl
@[simp] theorem setTurns_panel (ts : List WriterTurn) : (s.setTurns ts).panel = s.panel := rfl
@[simp] theorem setTurns_hostIn (ts : List WriterTurn) : (s.setTurns ts).hostIn = s.hostIn := rfl
@[simp] theorem setTurns_answers (ts : List WriterTurn) : (s.setTurns ts).answers = s.answers := rfl
@[simp] theorem setTurns_draws (ts : List WriterTurn) : (s.setTurns ts).draws = s.draws := rfl
@[simp] theorem setTurns_turns (ts : List WriterTurn) : (s.setTurns ts).turns = ts := rfl
@[simp] theorem setTurns_wiping (ts : List WriterTurn) : (s.setTurns ts).wiping = s.wiping := rfl
@[simp] theorem setTurns_responses (ts : List WriterTurn) : (s.setTurns ts).responses = s.responses := rfl
@[simp] theorem setTurns_trace (ts : List WriterTurn) : (s.setTurns ts).trace = s.trace := rfl
@[simp] theorem setTurns_display (ts : List WriterTurn) : (s.setTurns ts).display = s.display := rfl

@[simp] theorem setWiping_fb (cs : List FbAddr) : (s.setWiping cs).fb = s.fb := rfl
@[simp] theorem setWiping_lut (cs : List FbAddr) : (s.setWiping cs).lut = s.lut := rfl
@[simp] theorem setWiping_cfg (cs : List FbAddr) : (s.setWiping cs).cfg = s.cfg := rfl
@[simp] theorem setWiping_concurrentWrites (cs : List FbAddr) : (s.setWiping cs).concurrentWrites = s.concurrentWrites := rfl
@[simp] theorem setWiping_seq (cs : List FbAddr) : (s.setWiping cs).seq = s.seq := rfl
@[simp] theorem setWiping_pins (cs : List FbAddr) : (s.setWiping cs).pins = s.pins := rfl
@[simp] theorem setWiping_panel (cs : List FbAddr) : (s.setWiping cs).panel = s.panel := rfl
@[simp] theorem setWiping_hostIn (cs : List FbAddr) : (s.setWiping cs).hostIn = s.hostIn := rfl
@[simp] theorem setWiping_answers (cs : List FbAddr) : (s.setWiping cs).answers = s.answers := rfl
@[simp] theorem setWiping_draws (cs : List FbAddr) : (s.setWiping cs).draws = s.draws := rfl
@[simp] theorem setWiping_turns (cs : List FbAddr) : (s.setWiping cs).turns = s.turns := rfl
@[simp] theorem setWiping_wiping (cs : List FbAddr) : (s.setWiping cs).wiping = cs := rfl
@[simp] theorem setWiping_responses (cs : List FbAddr) : (s.setWiping cs).responses = s.responses := rfl
@[simp] theorem setWiping_trace (cs : List FbAddr) : (s.setWiping cs).trace = s.trace := rfl
@[simp] theorem setWiping_display (cs : List FbAddr) : (s.setWiping cs).display = s.display := rfl

@[simp] theorem respond_fb (r : Response) : (s.respond r).fb = s.fb := rfl
@[simp] theorem respond_lut (r : Response) : (s.respond r).lut = s.lut := rfl
@[simp] theorem respond_cfg (r : Response) : (s.respond r).cfg = s.cfg := rfl
@[simp] theorem respond_concurrentWrites (r : Response) : (s.respond r).concurrentWrites = s.concurrentWrites := rfl
@[simp] theorem respond_seq (r : Response) : (s.respond r).seq = s.seq := rfl
@[simp] theorem respond_pins (r : Response) : (s.respond r).pins = s.pins := rfl
@[simp] theorem respond_panel (r : Response) : (s.respond r).panel = s.panel := rfl
@[simp] theorem respond_hostIn (r : Response) : (s.respond r).hostIn = s.hostIn := rfl
@[simp] theorem respond_answers (r : Response) : (s.respond r).answers = s.answers := rfl
@[simp] theorem respond_draws (r : Response) : (s.respond r).draws = s.draws := rfl
@[simp] theorem respond_turns (r : Response) : (s.respond r).turns = s.turns := rfl
@[simp] theorem respond_wiping (r : Response) : (s.respond r).wiping = s.wiping := rfl
@[simp] theorem respond_responses (r : Response) : (s.respond r).responses = s.responses ++ [r] := rfl
@[simp] theorem respond_trace (r : Response) : (s.respond r).trace = s.trace := rfl
@[simp] theorem respond_display (r : Response) : (s.respond r).display = s.display := rfl

@[simp] theorem record_fb (e : Event) : (s.record e).fb = s.fb := rfl
@[simp] theorem record_lut (e : Event) : (s.record e).lut = s.lut := rfl
@[simp] theorem record_cfg (e : Event) : (s.record e).cfg = s.cfg := rfl
@[simp] theorem record_concurrentWrites (e : Event) : (s.record e).concurrentWrites = s.concurrentWrites := rfl
@[simp] theorem record_seq (e : Event) : (s.record e).seq = s.seq := rfl
@[simp] theorem record_pins (e : Event) : (s.record e).pins = s.pins := rfl
@[simp] theorem record_panel (e : Event) : (s.record e).panel = s.panel := rfl
@[simp] theorem record_hostIn (e : Event) : (s.record e).hostIn = s.hostIn := rfl
@[simp] theorem record_answers (e : Event) : (s.record e).answers = s.answers := rfl
@[simp] theorem record_draws (e : Event) : (s.record e).draws = s.draws := rfl
@[simp] theorem record_turns (e : Event) : (s.record e).turns = s.turns := rfl
@[simp] theorem record_wiping (e : Event) : (s.record e).wiping = s.wiping := rfl
@[simp] theorem record_responses (e : Event) : (s.record e).responses = s.responses := rfl
@[simp] theorem record_trace (e : Event) : (s.record e).trace = s.trace ++ [e] := rfl
@[simp] theorem record_display (e : Event) : (s.record e).display = s.display := rfl

@[simp] theorem exhibit_fb (f : Frame) : (s.exhibit f).fb = s.fb := rfl
@[simp] theorem exhibit_lut (f : Frame) : (s.exhibit f).lut = s.lut := rfl
@[simp] theorem exhibit_cfg (f : Frame) : (s.exhibit f).cfg = s.cfg := rfl
@[simp] theorem exhibit_concurrentWrites (f : Frame) : (s.exhibit f).concurrentWrites = s.concurrentWrites := rfl
@[simp] theorem exhibit_seq (f : Frame) : (s.exhibit f).seq = s.seq := rfl
@[simp] theorem exhibit_pins (f : Frame) : (s.exhibit f).pins = s.pins := rfl
@[simp] theorem exhibit_panel (f : Frame) : (s.exhibit f).panel = s.panel := rfl
@[simp] theorem exhibit_hostIn (f : Frame) : (s.exhibit f).hostIn = s.hostIn := rfl
@[simp] theorem exhibit_answers (f : Frame) : (s.exhibit f).answers = s.answers := rfl
@[simp] theorem exhibit_draws (f : Frame) : (s.exhibit f).draws = s.draws := rfl
@[simp] theorem exhibit_turns (f : Frame) : (s.exhibit f).turns = s.turns := rfl
@[simp] theorem exhibit_wiping (f : Frame) : (s.exhibit f).wiping = s.wiping := rfl
@[simp] theorem exhibit_responses (f : Frame) : (s.exhibit f).responses = s.responses := rfl
@[simp] theorem exhibit_trace (f : Frame) : (s.exhibit f).trace = s.trace := rfl
@[simp] theorem exhibit_display (f : Frame) : (s.exhibit f).display = s.display ++ [f] := rfl

@[simp] theorem consumeAnswer_fb : (s.consumeAnswer).fb = s.fb := rfl
@[simp] theorem consumeAnswer_lut : (s.consumeAnswer).lut = s.lut := rfl
@[simp] theorem consumeAnswer_cfg : (s.consumeAnswer).cfg = s.cfg := rfl
@[simp] theorem consumeAnswer_concurrentWrites : (s.consumeAnswer).concurrentWrites = s.concurrentWrites := rfl
@[simp] theorem consumeAnswer_seq : (s.consumeAnswer).seq = s.seq := rfl
@[simp] theorem consumeAnswer_pins : (s.consumeAnswer).pins = s.pins := rfl
@[simp] theorem consumeAnswer_panel : (s.consumeAnswer).panel = s.panel := rfl
@[simp] theorem consumeAnswer_hostIn : (s.consumeAnswer).hostIn = s.hostIn := rfl
@[simp] theorem consumeAnswer_answers : (s.consumeAnswer).answers = s.answers.tail := rfl
@[simp] theorem consumeAnswer_draws : (s.consumeAnswer).draws = s.draws + 1 := rfl
@[simp] theorem consumeAnswer_turns : (s.consumeAnswer).turns = s.turns := rfl
@[simp] theorem consumeAnswer_wiping : (s.consumeAnswer).wiping = s.wiping := rfl
@[simp] theorem consumeAnswer_responses : (s.consumeAnswer).responses = s.responses := rfl
@[simp] theorem consumeAnswer_trace : (s.consumeAnswer).trace = s.trace := rfl
@[simp] theorem consumeAnswer_display : (s.consumeAnswer).display = s.display := rfl

/-! ### A constructed state -/

@[simp] theorem built_fb (b h : Nat) : (built b h).fb = [] := rfl
@[simp] theorem built_lut (b h : Nat) : (built b h).lut = Config.gamma := rfl
@[simp] theorem built_cfg (b h : Nat) : (built b h).cfg = ⟨b, h, true⟩ := rfl
@[simp] theorem built_concurrentWrites (b h : Nat) : (built b h).concurrentWrites = false := rfl
@[simp] theorem built_seq (b h : Nat) : (built b h).seq = ⟨.idle, 0, 0, 0⟩ := rfl
@[simp] theorem built_pins (b h : Nat) : (built b h).pins = Config.pinInit := rfl
@[simp] theorem built_sr (b h : Nat) : (built b h).panel.sr = List.ofFn Config.srInit := rfl
@[simp] theorem built_out (b h : Nat) : (built b h).panel.out = List.ofFn Config.outInit := rfl
@[simp] theorem built_hostIn (b h : Nat) : (built b h).hostIn = [] := rfl
@[simp] theorem built_answers (b h : Nat) : (built b h).answers = [] := rfl
@[simp] theorem built_responses (b h : Nat) : (built b h).responses = [] := rfl
@[simp] theorem built_trace (b h : Nat) : (built b h).trace = [] := rfl
@[simp] theorem built_display (b h : Nat) : (built b h).display = [] := rfl

theorem reset_eq_built :
    State.reset = built Config.bits (compensationH Config.bits Config.ratioNum Config.ratioDen) := rfl

end Sys2Proof.Machine.State
end

