-- ==== Sys2Proof/Laws/Ops.lean ====
section
/-! SUPPORT. What the host port's acceptance and each command's own effect do, said once. -/

namespace Sys2Proof.Machine

/-- A free, constructed instance takes the command. -/
theorem State.onHostPort_accepts {s : State} (hp : s.seq.phase = .idle) (hc : s.cfg.constructed = true)
    (f : State → State) : s.onHostPort f = .next (f s) := by
  simp [State.onHostPort, hp, hc]

/-- While a pass is in progress nothing is taken. -/
theorem State.onHostPort_busy {s : State} (hp : s.seq.phase ≠ .idle) (f : State → State) :
    s.onHostPort f = .next s := by
  simp [State.onHostPort, hp]

/-- An instance that was not constructed answers NOT_CONSTRUCTED. -/
theorem State.onHostPort_inert {s : State} (hp : s.seq.phase = .idle) (hc : s.cfg.constructed = false)
    (f : State → State) : s.onHostPort f = .next (s.respond Response.notConstructed) := by
  simp [State.onHostPort, hp, hc]

/-- Everything the host port can do with a command. -/
theorem State.onHostPort_cases (s : State) (f : State → State) :
    ∃ t, s.onHostPort f = .next t ∧
      ((s.seq.phase ≠ .idle ∧ t = s) ∨
        (s.seq.phase = .idle ∧ s.cfg.constructed = true ∧ t = f s) ∨
        (s.seq.phase = .idle ∧ s.cfg.constructed = false ∧ t = s.respond Response.notConstructed)) := by
  by_cases hp : s.seq.phase = .idle
  · cases hc : s.cfg.constructed
    · exact ⟨_, State.onHostPort_inert hp hc f, .inr (.inr ⟨hp, rfl, rfl⟩)⟩
    · exact ⟨_, State.onHostPort_accepts hp hc f, .inr (.inl ⟨hp, rfl, rfl⟩)⟩
  · exact ⟨s, State.onHostPort_busy hp f, .inl ⟨hp, rfl⟩⟩

/-- A command's own effect on a free, constructed instance. -/
def effect : Instr → State → State
  | .wrpix x y color, s => (s.writePixel x y color).respond Response.done
  | .wipe, s => (s.setFb []).respond Response.done
  | .output, s => s.setSeq ⟨.row, 0, 0, 0⟩
  | .bbox, s => s.respond (Response.okData bboxData)

/-- Every command is its own effect, behind the host port's acceptance. -/
theorem exec_eq (i : Instr) (s : State) : exec i s = s.onHostPort (effect i) := by
  cases i <;> rfl

/-- The framebuffer write of a WRPIX inside the box. -/
theorem State.writePixel_some {x y : Int} {a : FbAddr} (s : State) (color : Rgb565) (h : mapCoord x y = some a) :
    s.writePixel x y color = s.setFb (s.fb.writeCell a (quantize s.lut color)) := by
  simp [State.writePixel, h]

/-- Outside the box nothing is written. -/
theorem State.writePixel_none {x y : Int} (s : State) (color : Rgb565) (h : mapCoord x y = none) :
    s.writePixel x y color = s := by
  simp [State.writePixel, h]

/-- A pixel write changes nothing but the framebuffer. -/
theorem State.writePixel_frame (s : State) (x y : Int) (color : Rgb565) :
    ∃ m, s.writePixel x y color = s.setFb m := by
  unfold State.writePixel
  split
  · exact ⟨_, rfl⟩
  · exact ⟨s.fb, rfl⟩

end Sys2Proof.Machine
end

