-- ==== Sys2Proof/Laws/Scan.lean ====
section
/-! SUPPORT. What one step of the scan engine does, said once. -/

namespace Sys2Proof.Machine

/-- The schedule has no part in which call is next. -/
@[simp] theorem State.nextCall_setTurns (s : State) (ts : List WriterTurn) : (s.setTurns ts).nextCall = s.nextCall := rfl

/-- The schedule has no part in the answer that comes in. -/
@[simp] theorem State.nextAnswer_setTurns (s : State) (ts : List WriterTurn) :
    (s.setTurns ts).nextAnswer = s.nextAnswer := rfl

/-- The answer that was fixed beforehand is the one that comes in. -/
theorem State.nextAnswer_cons {s : State} {r : Resp} {rs : List Resp} (h : s.answers = r :: rs) :
    s.nextAnswer = r := by
  simp [State.nextAnswer, h]

/-- A call that returns `ok`. -/
theorem State.issue_ok {s : State} (k : Call) (h : s.nextAnswer = .ok) :
    s.issue k = (okEffects k (s.consumeAnswer.record ⟨k, .ok⟩)).advance := by
  simp [State.issue, h]

/-- A call that returns `err(e)`. -/
theorem State.issue_err {s : State} (k : Call) {e : Err} (h : s.nextAnswer = .err e) :
    s.issue k = (failedEffects k s.draws (s.consumeAnswer.record ⟨k, .err e⟩)).raiseExtError e := by
  simp [State.issue, h]

/-- A call's effects on `ok` reach the lines, the panel and what it displays, nothing else. -/
theorem okEffects_frame (k : Call) (s : State) :
    okEffects k s =
      { s with pins := (okEffects k s).pins, panel := (okEffects k s).panel, display := (okEffects k s).display } := by
  cases k with
  | colorSet h c m => cases h <;> rfl
  | _ => rfl

/-- A failed call's effects reach the lines and the panel, nothing else. -/
theorem failedEffects_frame (k : Call) (n : Nat) (s : State) :
    failedEffects k n s =
      { s with pins := (failedEffects k n s).pins, panel := (failedEffects k n s).panel } := by
  cases k with
  | colorSet h c m => cases h <;> rfl
  | _ => rfl

/-- The two ways the sequencer moves on after an `ok`. -/
theorem State.advance_cases (s : State) :
    ((s.seq.succ s.cfg.bits).phase ≠ .idle ∧ s.advance = s.setSeq (s.seq.succ s.cfg.bits)) ∨
      ((s.seq.succ s.cfg.bits).phase = .idle ∧
        s.advance = (s.setSeq (s.seq.succ s.cfg.bits)).respond Response.done) := by
  by_cases h : (s.seq.succ s.cfg.bits).phase = .idle
  · exact .inr ⟨h, by simp [State.advance, h]⟩
  · exact .inl ⟨h, by simp [State.advance, h]⟩

/-- Every phase but IDLE names a call. -/
theorem State.nextCall_isSome {s : State} (h : s.seq.phase ≠ .idle) : ∃ k, s.nextCall = some k := by
  unfold State.nextCall
  split <;> simp_all

/-- A step of the scan engine issues the call that `SEQ` names. -/
theorem State.scanStep_eq {s : State} {k : Call} (h : s.nextCall = some k) : s.scanStep = s.issue k := by
  simp [State.scanStep, h]

/-- Everything a step of the scan engine can do: it issues one call, and either the answer is `ok` or the pass ends
with the error. -/
theorem State.scanStep_cases {s : State} (h : s.seq.phase ≠ .idle) :
    ∃ k, s.nextCall = some k ∧
      ((s.nextAnswer = .ok ∧
          s.scanStep = (okEffects k (s.consumeAnswer.record ⟨k, .ok⟩)).advance) ∨
        ∃ e, s.nextAnswer = .err e ∧
          s.scanStep =
            (failedEffects k s.draws (s.consumeAnswer.record ⟨k, .err e⟩)).raiseExtError e) := by
  obtain ⟨k, hk⟩ := State.nextCall_isSome h
  refine ⟨k, hk, ?_⟩
  rw [State.scanStep_eq hk]
  cases ha : s.nextAnswer with
  | ok => exact .inl ⟨rfl, State.issue_ok k ha⟩
  | err e => exact .inr ⟨e, rfl, State.issue_err k ha⟩

/-- A step of the scan engine leaves the framebuffer, the table, the configuration and every input but the answers. -/
theorem State.scanStep_frame (s : State) :
    s.scanStep.fb = s.fb ∧ s.scanStep.lut = s.lut ∧ s.scanStep.cfg = s.cfg ∧
      s.scanStep.concurrentWrites = s.concurrentWrites ∧ s.scanStep.hostIn = s.hostIn ∧
      s.scanStep.turns = s.turns ∧ s.scanStep.wiping = s.wiping := by
  by_cases h : s.seq.phase = .idle
  · simp [State.scanStep, State.nextCall, h]
  · obtain ⟨k, -, ⟨-, hs⟩ | ⟨e, -, hs⟩⟩ := State.scanStep_cases h
    · rcases State.advance_cases (okEffects k (s.consumeAnswer.record ⟨k, .ok⟩)) with ⟨-, ha⟩ | ⟨-, ha⟩ <;>
        · rw [hs, ha, okEffects_frame]; simp
    · rw [hs, failedEffects_frame]; simp [State.raiseExtError]

end Sys2Proof.Machine
end

