-- ==== Sys2Proof/Laws/Pass.lean ====
section
/-! SUPPORT. The calls that a pass has still to issue from a position of the sequencer, and that one `ok` takes exactly
the first of them off. An induction over the steps of a pass then needs no unfolding of the loops. -/

namespace Sys2Proof.Machine

section
variable (m : Mem) (bits h : Nat)

/-- The calls of the rows from `r` on. -/
def rowsFrom (r : Nat) : List Call := ((List.finRange 16).drop r).flatMap (rowCalls m bits h)

/-- The calls of the planes of a row from `p` on. -/
def planesFrom (row : Fin 16) (p : Nat) : List Call := ((planes bits).drop p).flatMap (planeCalls m bits h row)

/-- The calls of the columns of a plane from `c` on. -/
def columnsFrom (row : Fin 16) (mask : Fin 8) (c : Nat) : List Call :=
  ((List.finRange 64).drop c).flatMap (columnCalls m row mask)

/-- The calls after the columns of a plane. -/
def closing (row : Fin 16) (mask : Fin 8) : List Call :=
  .latch :: .showFor (duration bits h mask) :: (planesFrom m bits h row (mask.val + 1) ++ rowsFrom m bits h (row.val + 1))

/-- The calls that a pass has still to issue from a position. -/
def callsFrom (q : Seq) : List Call :=
  match q.phase with
  | .idle => []
  | .row => rowsFrom m bits h q.row
  | .colorU => columnsFrom m q.row q.plane q.col ++ closing m bits h q.row q.plane
  | .colorL =>
    .colorSet .lower (m.readCell ⟨.lower, q.row, q.col⟩) q.plane :: .shift ::
      (columnsFrom m q.row q.plane (q.col.val + 1) ++ closing m bits h q.row q.plane)
  | .shift => .shift :: (columnsFrom m q.row q.plane (q.col.val + 1) ++ closing m bits h q.row q.plane)
  | .latch => closing m bits h q.row q.plane
  | .showing =>
    .showFor (duration bits h q.plane) ::
      (planesFrom m bits h q.row (q.plane.val + 1) ++ rowsFrom m bits h (q.row.val + 1))

/-- The calls from the start of a pass are those of the closed form. -/
theorem callsFrom_start : callsFrom m bits h ⟨.row, 0, 0, 0⟩ = passCalls m bits h := rfl

theorem finRange_drop {n : Nat} (i : Fin n) : (List.finRange n).drop i = i :: (List.finRange n).drop (i.val + 1) := by
  rw [List.drop_eq_getElem_cons (by simp)]; simp

theorem planes_drop {bits : Nat} (p : Fin 8) (hp : p.val < bits) :
    (planes bits).drop p = p :: (planes bits).drop (p.val + 1) := by
  rw [List.drop_eq_getElem_cons (by simpa [planes] using hp)]
  simp [planes]

theorem columnsFrom_cons (row : Fin 16) (mask : Fin 8) (c : Fin 64) :
    columnsFrom m row mask c =
      .colorSet .upper (m.readCell ⟨.upper, row, c⟩) mask :: .colorSet .lower (m.readCell ⟨.lower, row, c⟩) mask ::
        .shift :: columnsFrom m row mask (c.val + 1) := by
  simp [columnsFrom, finRange_drop c, columnCalls]

theorem columnsFrom_end (row : Fin 16) (mask : Fin 8) : columnsFrom m row mask 64 = [] := by
  simp [columnsFrom, List.drop_eq_nil_of_le]

theorem planesFrom_cons (row : Fin 16) (p : Fin 8) (hp : p.val < bits) :
    planesFrom m bits h row p ++ rowsFrom m bits h (row.val + 1) =
      columnsFrom m row p 0 ++ closing m bits h row p := by
  simp [planesFrom, planes_drop p hp, planeCalls, columnsFrom, closing]

theorem planesFrom_end (row : Fin 16) : planesFrom m bits h row bits = [] := by
  simp [planesFrom, planes, List.drop_eq_nil_of_le]

theorem rowsFrom_cons (r : Fin 16) :
    rowsFrom m bits h r = .rowSet r :: (planesFrom m bits h r 0 ++ rowsFrom m bits h (r.val + 1)) := by
  simp [rowsFrom, finRange_drop r, rowCalls, planesFrom]

theorem rowsFrom_end : rowsFrom m bits h 16 = [] := by
  simp [rowsFrom, List.drop_eq_nil_of_le]

end

/-- The call that `SEQ` names is the first of those still to issue, and an `ok` leaves the others. -/
theorem callsFrom_succ {s : State} {k : Call} (h1 : 1 ≤ s.cfg.bits) (h8 : s.cfg.bits ≤ 8)
    (hp : s.seq.plane.val < s.cfg.bits) (hk : s.nextCall = some k) :
    callsFrom s.fb s.cfg.bits s.cfg.h s.seq =
      k :: callsFrom s.fb s.cfg.bits s.cfg.h (s.seq.succ s.cfg.bits) := by
  rcases hq : s.seq with ⟨ph, row, plane, col⟩
  simp only [hq] at hp
  have hrow := row.isLt; have hcol := col.isLt; have hpl := plane.isLt
  cases ph <;> simp only [State.nextCall, hq, Option.some.injEq, reduceCtorEq] at hk <;> subst hk
  · have := planesFrom_cons s.fb s.cfg.bits s.cfg.h row 0 (by show 0 < _; omega)
    simpa [callsFrom, Seq.succ, rowsFrom_cons] using this
  · simp [callsFrom, Seq.succ, columnsFrom_cons]
  · simp [callsFrom, Seq.succ]
  · by_cases hc : col.val < 63
    · have : (col.val + 1) % 64 = col.val + 1 := by omega
      simp [callsFrom, Seq.succ, hc, this]
    · have : col.val + 1 = 64 := by omega
      simp [callsFrom, Seq.succ, hc, this, columnsFrom_end]
  · simp [callsFrom, Seq.succ, closing]
  · by_cases hb : plane.val + 1 < s.cfg.bits
    · have hm : (plane.val + 1) % 8 = plane.val + 1 := by omega
      have := planesFrom_cons s.fb s.cfg.bits s.cfg.h row (Fin.ofNat 8 (plane.val + 1)) (by simpa [hm] using hb)
      simp only [Fin.ofNat_eq_cast, Fin.val_natCast, hm] at this
      simp [callsFrom, Seq.succ, hb, this]
    · have he : plane.val + 1 = s.cfg.bits := by omega
      by_cases hr : row.val < 15
      · have : (row.val + 1) % 16 = row.val + 1 := by omega
        simp [callsFrom, Seq.succ, he, planesFrom_end, hr, this]
      · have : row.val + 1 = 16 := by omega
        simp [callsFrom, Seq.succ, he, planesFrom_end, hr, this, rowsFrom_end]

end Sys2Proof.Machine
end

