-- ==== Sys2Proof/Laws/PerInstr.lean ====
section
/-! SUPPORT. Statements about every command, one lemma per constructor. -/

namespace Sys2Proof.Laws.OpcodeField

/-- The opcode field of a command's word is the command's opcode (30_encoding.md R56, R61). -/
def Statement (i : Sys2Proof.Instr) : Prop := opcField (encode i) = i.opcode

theorem wrpix (x y : Int) (color : Sys2Proof.Rgb565) : Statement (.wrpix x y color) := by
  unfold Statement opcField encode Sys2Proof.Instr.opcode
  ext i hi
  simp only [BitVec.getElem_extractLsb', BitVec.getLsbD_append]
  rw [← BitVec.getLsbD_eq_getElem]
  simp [show ¬ (56 + i < 16) by omega, show ¬ (56 + i - 16 < 16) by omega, show ¬ (56 + i - 16 - 16 < 16) by omega,
    show ¬ (56 + i - 16 - 16 - 16 < 8) by omega, show 56 + i - 16 - 16 - 16 - 8 = i by omega]

theorem wipe : Statement .wipe := by unfold Statement; decide

theorem output : Statement .output := by unfold Statement; decide

theorem bbox : Statement .bbox := by unfold Statement; decide

end Sys2Proof.Laws.OpcodeField
end

