-- ==== Sys2Proof/Laws/Step.lean ====
section
/-! SUPPORT. What one step of the machine can do, said once, and the step where no second writer exists. -/

namespace Sys2Proof.Machine

/-- A word's own effect on a free, constructed instance: its command's, or the answer ILLEGAL. -/
def wordEffect (w : Word) (s : State) : State :=
  match decode w with
  | .ok i => effect i s
  | .error _ => s.respond Response.illegal

theorem wordEffect_ok {w : Word} {i : Instr} (h : decode w = .ok i) (s : State) : wordEffect w s = effect i s := by
  simp [wordEffect, h]

theorem wordEffect_error {w : Word} {e : DecodeError} (h : decode w = .error e) (s : State) :
    wordEffect w s = s.respond Response.illegal := by
  simp [wordEffect, h]

/-- Every word is its own effect, behind the host port's acceptance. -/
theorem runWord_eq (w : Word) (s : State) : runWord w s = s.onHostPort (wordEffect w) := by
  unfold runWord
  cases h : decode w with
  | ok i => simp only [exec_eq]; congr 1; funext s; exact (wordEffect_ok h s).symm
  | error e => simp only; congr 1; funext s; exact (wordEffect_error h s).symm

/-- Everything a step of CORE can do: a panel-port call, the host's next word, or nothing. -/
theorem coreStep_cases (s : State) :
    (s.seq.phase ≠ .idle ∧ coreStep s = .next s.scanStep) ∨
      (s.seq.phase = .idle ∧ s.hostIn = [] ∧ coreStep s = .next s) ∨
      ∃ w ws, s.seq.phase = .idle ∧ s.hostIn = w :: ws ∧ coreStep s = runWord w (s.setHostIn ws) := by
  by_cases hp : s.seq.phase = .idle
  · cases hh : s.hostIn with
    | nil => exact .inr (.inl ⟨hp, rfl, by simp [coreStep, hp, hh]⟩)
    | cons w ws => exact .inr (.inr ⟨w, ws, hp, rfl, by simp [coreStep, hp, hh]⟩)
  · exact .inl ⟨hp, by simp [coreStep, hp]⟩

/-- Where there is no second writer, no turn is used up. -/
@[simp] theorem State.turnsLeft_of_no_writer {s : State} (h : s.writerMayMove = false) : s.turnsLeft = s.turns := by
  simp [State.turnsLeft, h]

/-- Where the second writer has no turn left, none is used up. -/
@[simp] theorem State.turnsLeft_of_empty {s : State} (h : s.turns = []) : s.turnsLeft = [] := by
  simp [State.turnsLeft, h]

/-- CORE's own turn is used up where there is a second writer. -/
@[simp] theorem State.turnsLeft_of_core {s : State} {ts : List WriterTurn} (hm : s.writerMayMove = true)
    (h : s.turns = .core :: ts) : s.turnsLeft = ts := by
  simp [State.turnsLeft, hm, h]

/-- Where every step is CORE's, so is the next. -/
theorem State.coreMoves.coresTurn {s : State} (h : s.coreMoves) : s.coresTurn := h.imp_right .inl

/-- On CORE's turn, the step is CORE's step once the turn is used up. -/
theorem step_coresTurn {s : State} (h : s.coresTurn) : step s = coreStep (s.setTurns s.turnsLeft) := by
  cases hm : s.writerMayMove
  · simp [step, machineStep, hm, State.setTurns]
  · rcases h with h | h | ⟨ts, h⟩
    · simp [hm] at h
    · simp only [step, machineStep, hm, h, if_true, State.turnsLeft_of_empty h]; rw [← h]; rfl
    · simp [step, machineStep, hm, h]

/-- On CORE's turn, a step during a pass is a step of the scan engine. -/
theorem step_scan_coresTurn {s : State} (h : s.coresTurn) (hp : s.seq.phase ≠ .idle) :
    step s = .next (s.setTurns s.turnsLeft).scanStep := by
  simp [step_coresTurn h, coreStep, hp]

/-- Everything a step of the machine can do: CORE's step, once the turn is used up, or a turn of the second writer. The
state says which. -/
theorem step_cases (s : State) :
    (s.coresTurn ∧ step s = coreStep (s.setTurns s.turnsLeft)) ∨
      ∃ t ts, s.writerMayMove = true ∧ s.turns = t :: ts ∧ t ≠ .core ∧
        step s = .next ((s.setTurns ts).writerTurn t) := by
  by_cases h : s.coresTurn
  · exact .inl ⟨h, step_coresTurn h⟩
  · simp only [not_or, Bool.not_eq_false, not_exists] at h
    obtain ⟨hm, hne, hc⟩ := h
    obtain ⟨t, ts, ht⟩ := List.exists_cons_of_ne_nil hne
    refine .inr ⟨t, ts, hm, ht, fun h => hc ts (by rw [ht, h]), ?_⟩
    cases t with
    | core => exact absurd ht (hc ts)
    | _ => simp [step, machineStep, hm, ht]

/-- Where the second writer does not move, every step is CORE's. -/
theorem step_core {s : State} (h : s.coreMoves) : step s = coreStep s := by
  rcases h with h | h <;> simp [step, machineStep, h]

/-- Where the second writer does not move, a step during a pass is a step of the scan engine. -/
theorem step_scan {s : State} (h : s.coreMoves) (hp : s.seq.phase ≠ .idle) : step s = .next s.scanStep := by
  simp [step_core h, coreStep, hp]

/-- A step of the scan engine leaves it so. -/
theorem scanStep_coreMoves {s : State} (h : s.coreMoves) : s.scanStep.coreMoves := by
  obtain ⟨-, -, hc, hw, -, ht, -⟩ := s.scanStep_frame
  rcases h with h | h
  · exact .inl (by simpa [State.writerMayMove, hc, hw] using h)
  · exact .inr (ht.trans h)

/-- A turn of the second writer leaves all but the framebuffer and the pending cells of its WIPE. -/
theorem State.writerTurn_frame (s : State) (t : WriterTurn) :
    ∃ m cs, s.writerTurn t = (s.setFb m).setWiping cs := by
  cases t with
  | core => exact ⟨s.fb, s.wiping, rfl⟩
  | wrpix x y c =>
    obtain ⟨m, hm⟩ := s.writePixel_frame x y c
    exact ⟨m, s.wiping, by rw [State.writerTurn, hm]; rfl⟩
  | startWipe => exact ⟨s.fb, _, rfl⟩
  | wipeCell k =>
    cases hk : s.wiping[k]? with
    | none => exact ⟨s.fb, s.wiping, by simp [State.writerTurn, hk]; rfl⟩
    | some a => exact ⟨_, _, by simp only [State.writerTurn, hk]; rfl⟩

/-- Two runs, one after the other. -/
theorem run_add {M : Host.Core} (m n : Nat) (s t : M.State) (h : M.run m s = .next t) :
    M.run (m + n) s = M.run n t := by
  induction m generalizing s with
  | zero => simp only [Host.Core.run, Host.Outcome.next.injEq] at h; simp [h]
  | succ m ih =>
    rw [show m + 1 + n = (m + n) + 1 by omega]
    simp only [Host.Core.run] at h ⊢
    cases hs : M.step s with
    | next s' => rw [hs] at h; exact ih s' h
    | fault r => rw [hs] at h; cases h
    | refused r => rw [hs] at h; cases h

/-- One step of a run. -/
theorem run_succ {M : Host.Core} (n : Nat) (s t : M.State) (h : M.step s = .next t) :
    M.run (n + 1) s = M.run n t := by
  simp [Host.Core.run, h]

end Sys2Proof.Machine
end

