-- ==== Sys2Proof/Tests/Slice0.lean ====
section
/-! SUPPORT. Our own tests, their expected results taken from spec/95_test_vectors.md and the rules, and for each
statement with hypotheses a witness that meets them all. -/

namespace Sys2Proof.Tests

open Sys2Proof Sys2Proof.Machine

/-! ### Well-formedness: an ill-formed term for each check (30_encoding.md R59) -/

theorem test_wf_x_low : (Instr.wrpix (-32769) 0 0).wellFormed = false := by decide
theorem test_wf_x_high : (Instr.wrpix 32768 0 0).wellFormed = false := by decide
theorem test_wf_y_low : (Instr.wrpix 0 (-32769) 0).wellFormed = false := by decide
theorem test_wf_y_high : (Instr.wrpix 0 32768 0).wellFormed = false := by decide
theorem test_wf_boundary : (Instr.wrpix (-32768) 32767 0xFFFF).wellFormed = true := by decide

/-! ### Words written out bit by bit (30_encoding.md R57, R58, R71; 95 §2.1) -/

/-- OPC, RSV, COLOR = rgb(31, 0, 0), Y = 3, X = 5. -/
theorem test_decode_wrpix :
    decode (0b00000001#8 ++ 0b00000000#8 ++ 0b1111100000000000#16 ++ 0b0000000000000011#16 ++ 0b0000000000000101#16)
      = .ok (.wrpix 5 3 0xF800) := by decide
/-- X = −1 is sixteen ones; Y = −32768 is a one and fifteen zeros. -/
theorem test_decode_wrpix_signed :
    decode (0b00000001#8 ++ 0b00000000#8 ++ 0b0000011111100000#16 ++ 0b1000000000000000#16 ++ 0b1111111111111111#16)
      = .ok (.wrpix (-1) (-32768) 0x07E0) := by decide
theorem test_decode_wipe : decode (0b00000010#8 ++ 0#56) = .ok .wipe := by decide
theorem test_decode_output : decode (0b00000011#8 ++ 0#56) = .ok .output := by decide
theorem test_decode_bbox : decode (0b00000100#8 ++ 0#56) = .ok .bbox := by decide
theorem test_decode_rsv_pix : decode 0x0101FFFF00000000#64 = .error (.reservedNonzero 0x01) := by decide
theorem test_decode_opcode_05 : decode 0x0500000000000000#64 = .error (.undefinedOpcode 0x05) := by decide
theorem test_decode_opcode_00 : decode 0#64 = .error (.undefinedOpcode 0x00) := by decide
theorem test_decode_opcode_ff : decode 0xFF00000000000000#64 = .error (.undefinedOpcode 0xFF) := by decide
theorem test_encode_wrpix : encode (.wrpix 63 31 0xFFFF) = 0x0100FFFF001F003F#64 := by decide
theorem test_decode_bytes :
    decodeBytes [0x05, 0x00, 0x03, 0x00, 0x00, 0xF8, 0x00, 0x01, 0xAA] = .ok (.wrpix 5 3 0xF800, [0xAA]) := by decide
theorem test_decode_bytes_short : decodeBytes [0x05, 0x00] = .error (.truncated 2) := by decide
theorem test_table_word : decodeTableWord 64 0x0100000000000000 = some (.wrpix 0 0 0) := by decide

/-! ### Assembler (30_encoding.md R70, R71; 95 §2.4) -/

theorem test_asm_wrpix :
    assembleLine "WRPIX 63, 31, rgb(31, 63, 31) ; corner".toList = .ok [0x0100FFFF001F003F#64] := by decide
theorem test_asm_draw :
    parseLine "DRAW (1,1,0xFFFF), (64,1,0xFFFF)".toList = .ok [.wrpix 1 1 0xFFFF, .wrpix 64 1 0xFFFF] := by decide
theorem test_asm_out_of_range : parseLine "WRPIX 0, 0, rgb(32,0,0)".toList = .error .outOfRange := by decide

/-! ### Operands (95 §2.2, §2.3, §2.7) -/

theorem test_index : ((idx5 (red5 0x0841)).val, (idx6 (grn6 0x0841)).val, (idx5 (blu5 0x0841)).val) = (15, 11, 15) := by
  decide
theorem test_map_upper : mapCoord 63 15 = some ⟨.upper, 15, 63⟩ := by decide
theorem test_map_lower : mapCoord 0 16 = some ⟨.lower, 0, 0⟩ := by decide
theorem test_map_corner : mapCoord 63 31 = some ⟨.lower, 15, 63⟩ := by decide
theorem test_map_outside : mapCoord 64 0 = none ∧ mapCoord 0 32 = none ∧ mapCoord (-1) 0 = none ∧ mapCoord 0 (-1) = none := by
  decide
theorem test_plane_lines_4 : planeLines 4 0 ⟨0xA5, 0x3C, 0xFF⟩ = ⟨false, true, true⟩ := by decide
theorem test_plane_lines_8 : planeLines 8 1 ⟨0xA5, 0x3C, 0xFF⟩ = ⟨false, false, true⟩ := by decide

/-! ### Compensator (95 §2.5, §2.6) -/

theorem test_h : [compensationH 8 9 10, compensationH 1 1 10, compensationH 6 2 3, compensationH 5 4 5] = [153, 0, 26, 44] := by
  decide
theorem test_duration : (List.range 8).map (duration 8 1683) = [6, 13, 26, 52, 105, 211, 422, 844] := by decide

/-! ### A small state -/

/-- A constructed instance with BITS = 1, H = 3 (95 program P1), idle, with a table that meets the laws. -/
def demo : State := { State.built 1 3 with lut := Config.gammaFallback }

/-- `demo` with the sequencer at a phase and the environment's next answers. -/
def demoAt (phase : Phase) (answers : List Resp) : State :=
  { demo with seq := ⟨phase, 15, 0, 63⟩, answers := answers }

/-- `demo` with the host's next words. -/
def demoHost (ws : List Word) : State := { demo with hostIn := ws }

/-- `demo` with a second writer and its schedule. -/
def demoWriter (ts : List WriterTurn) : State := { demo with concurrentWrites := true, turns := ts, wiping := [⟨.lower, 15, 63⟩] }

theorem gammaFallback_lawful : Config.gammaFallback.Lawful := by
  refine ⟨fun i j hij => ?_, by simp [Config.gammaFallback], by simp [Config.gammaFallback],
    ⟨1, by simp [Config.gammaFallback]⟩⟩
  simp only [Config.gammaFallback, Fin.getElem_fin, Vector.getElem_ofFn, Fin.eta]
  split_ifs <;> simp_all; omega

theorem demo_panelShaped (phase : Phase) (as : List Resp) : (demoAt phase as).panelShaped := by
  simp [State.panelShaped, demoAt, demo]

theorem demo_inv : demo.Inv := by
  refine ⟨⟨List.Pairwise.nil, by simp [demo]⟩, gammaFallback_lawful, by simp [demo], by simp [demo], ?_, by simp [demo]⟩
  exact demo_panelShaped .idle []

/-! ### One step of each command -/

/-- 95 §2.4: `WRPIX 5, 3, 0xFFFF` writes (255,255,255), through a table that meets the laws. -/
theorem test_wrpix : ∃ t, exec (.wrpix 5 3 0xFFFF) demo = .next t ∧ t.fb.readCell ⟨.upper, 3, 5⟩ = ⟨255, 255, 255⟩ := by
  refine ⟨_, rfl, ?_⟩
  simp [State.writePixel, show mapCoord 5 3 = some ⟨.upper, 3, 5⟩ by decide, Mem.writeCell, Mem.readCell, Mem.write,
    Mem.without, Mem.read, demo, quantize, red5, grn6, blu5, idx5, idx6, Config.gammaFallback, Mem.insertAt, FbAddr.base,
    Half.index, List.lookup]
theorem test_wrpix_clipped : ∃ t, exec (.wrpix (-1) 0 0x07E0) demo = .next t ∧ t.fb = [] ∧ t.responses = [⟨.ok, 0, none⟩] :=
  ⟨_, rfl, rfl, rfl⟩
theorem test_wipe : ∃ t, exec .wipe { demo with fb := [(0, 7)] } = .next t ∧ t.fb = [] := ⟨_, rfl, rfl⟩
theorem test_bbox : ∃ t, exec .bbox demo = .next t ∧ t.responses = [⟨.ok, 0x0020004000000000, none⟩] := ⟨_, rfl, rfl⟩
theorem test_output : ∃ t, exec .output demo = .next t ∧ t.seq = ⟨.row, 0, 0, 0⟩ ∧ t.responses = [] := ⟨_, rfl, rfl, rfl⟩
/-- 95 P1: the last Show of a pass holds row 15 for 3 units and completes OUTPUT with OK. -/
theorem test_last_show : ∃ t, step (demoAt .showing [.ok]) = .next t ∧ t.seq.phase = .idle ∧
    t.trace = [⟨.showFor 3, .ok⟩] ∧ t.responses = [⟨.ok, 0, none⟩] := ⟨_, rfl, rfl, rfl, rfl⟩
/-- 95 P3: a failed Latch is answered with its error, and the next pass starts anew. -/
theorem test_failed_latch : ∃ t, step (demoAt .latch [.err ⟨1⟩]) = .next t ∧ t.seq.phase = .idle ∧
    t.responses = [⟨.extErr, 0, some ⟨1⟩⟩] := ⟨_, rfl, rfl, rfl⟩
/-- 95 P4: instance B, whose on-ratio is 3/2. -/
theorem test_not_constructed : ∃ t, step { construct 8 3 2 with hostIn := [0x0300000000000000] } = .next t ∧
    t.seq.phase = .idle ∧ t.trace = [] ∧ t.responses = [⟨.notConstructed, 0, none⟩] := ⟨_, rfl, rfl, rfl, rfl⟩
/-- 95 §2.5: constructions that fail, and the extreme ones that succeed. -/
theorem test_construct_checks :
    [constructOk 0 1 2, constructOk 9 1 2, constructOk 4 0 1, constructOk 4 1 1, constructOk 4 (-1) 10, constructOk 4 3 2,
      constructOk 4 1 0, constructOk 1 1 2, constructOk 8 99 100] =
    [false, false, false, false, false, false, false, true, true] := by decide
/-- The placed word is the first command after reset. -/
theorem test_first_step : ∃ t, step (State.reset.withFetchWord 64 0x0300000000000000) = .next t ∧ t.seq.phase = .row :=
  ⟨_, rfl, rfl⟩

/-! ### Witnesses: a state and operands that meet all hypotheses of a statement together -/

theorem witness_free_port : demo.coreMoves ∧ demo.seq.phase = .idle ∧ demo.cfg.constructed = true ∧ demo.cfgLegal ∧
    demo.hostIn = [] := by simp [demo, State.coreMoves, State.writerMayMove]

/-- CORE's turn of a schedule, at every phase and with any answers and words to come. -/
theorem witness_coresTurn (phase : Phase) (as : List Resp) (ws : List Word) (ts : List WriterTurn) :
    ({ demoAt phase as with concurrentWrites := true, turns := .core :: ts, hostIn := ws } : State).coresTurn ∧
    ({ demoAt phase as with concurrentWrites := true, turns := .core :: ts, hostIn := ws } : State).writerMayMove = true ∧
    ({ demoAt phase as with concurrentWrites := true, turns := .core :: ts, hostIn := ws } : State).turnsLeft = ts :=
  ⟨.inr (.inr ⟨ts, rfl⟩), rfl, rfl⟩

theorem witness_DecodeOfEncodedInstr : (Instr.wrpix (-32768) 32767 0).wellFormed = true := by decide

theorem witness_EncodeOfDecodedWord : decode 0x0100000080007FFF#64 = .ok (.wrpix 32767 (-32768) 0) := by decide

theorem witness_IllegalWordsCompleteWithoutEffect :
    (demoHost [0x0201000000000000]).coresTurn ∧ (demoHost [0x0201000000000000]).seq.phase = .idle ∧
      (demoHost [0x0201000000000000]).cfg.constructed = true ∧
      (demoHost [0x0201000000000000]).hostIn = 0x0201000000000000 :: [] ∧
      ∃ e, decode 0x0201000000000000 = .error e :=
  ⟨.inl rfl, rfl, rfl, rfl, _, show decode 0x0201000000000000 = .error (.reservedNonzero 0x02) by decide⟩

theorem witness_AssembledLinesDecode : parseLine "WRPIX -1, 0, 0x07E0".toList = .ok [.wrpix (-1) 0 0x07E0] := by decide

theorem witness_RgbOperandPacksItsChannels :
    (31 ≤ 31 ∧ 63 ≤ 63 ∧ 31 ≤ 31) ∧
      ¬ ((0 : Int) ≤ 0 ∧ (0 : Int) ≤ 31 ∧ (0 : Int) ≤ 64 ∧ (64 : Int) ≤ 63 ∧ (0 : Int) ≤ 0 ∧ (0 : Int) ≤ 31) := by decide

theorem witness_CellWritesReplaceOneCell : Mem.wf [(0, 7), (6143, 1)] ∧ (⟨.upper, 0, 0⟩ : FbAddr) ≠ ⟨.lower, 15, 63⟩ := by
  decide

theorem witness_ExtremeColoursQuantize : Config.gammaFallback.Lawful := gammaFallback_lawful

theorem witness_WrpixWritesItsCell : demo.seq.phase = .idle ∧ demo.cfg.constructed = true ∧
    (0 : Int) ≤ 63 ∧ (63 : Int) < 64 ∧ (0 : Int) ≤ 31 ∧ (31 : Int) < 32 := ⟨rfl, rfl, by decide⟩

theorem witness_WrpixOutsideIsDiscarded : demo.seq.phase = .idle ∧ demo.cfg.constructed = true ∧
    ¬ ((0 : Int) ≤ 64 ∧ (64 : Int) < 64 ∧ (0 : Int) ≤ 0 ∧ (0 : Int) < 32) := ⟨rfl, rfl, by decide⟩

theorem witness_DrawKeepsTheLastPair :
    (demoHost ([encode (.wrpix 1 1 5)] ++ [0x0300000000000000])).coreMoves ∧
      (demoHost ([encode (.wrpix 1 1 5)] ++ [0x0300000000000000])).seq.phase = .idle ∧
      (demoHost ([encode (.wrpix 1 1 5)] ++ [0x0300000000000000])).cfg.constructed = true ∧
      (∀ p ∈ [((1 : Int), (1 : Int), (5 : Rgb565))], (Instr.wrpix p.1 p.2.1 p.2.2).wellFormed = true) ∧
      (demoHost ([encode (.wrpix 1 1 5)] ++ [0x0300000000000000])).hostIn =
        ([((1 : Int), (1 : Int), (5 : Rgb565))].map fun p => encode (.wrpix p.1 p.2.1 p.2.2)) ++ [0x0300000000000000] :=
  ⟨.inl rfl, rfl, rfl, by decide, rfl⟩

theorem witness_WipeIsEveryCellWrite : demo.seq.phase = .idle ∧ demo.cfg.constructed = true ∧ demo.fb.wf ∧
    ∀ a, a ∈ allCells := by
  refine ⟨rfl, rfl, demo_inv.fbWf, fun ⟨h, r, c⟩ => ?_⟩
  cases h <;> simp [allCells]

theorem witness_PassBlocksTheHostPort : (demoAt .row [.ok]).seq.phase ≠ .idle ∧
    ∃ t, step (demoAt .row [.ok]) = .next t := ⟨by simp [demoAt], _, rfl⟩

theorem witness_UnconstructedInstanceIsInert :
    ({ construct 8 3 2 with hostIn := [0] } : State).cfg.constructed = false ∧
      ({ construct 8 3 2 with hostIn := [0] } : State).seq.phase = .idle ∧
      ({ construct 8 3 2 with hostIn := [0] } : State).hostIn = 0 :: [] := ⟨rfl, rfl, rfl⟩

/-- Both clauses: no second writer, and a second writer with the turn CORE's. -/
theorem witness_StepRunsTheDecodedInstr :
    ((demoHost [0x0200000000000000]).seq.phase = .idle ∧ (demoHost [0x0200000000000000]).writerMayMove = false ∧
      (demoHost [0x0200000000000000]).hostIn = 0x0200000000000000 :: []) ∧
    ({ demoWriter [.core] with hostIn := [0x0200000000000000] } : State).writerMayMove = true ∧
    ({ demoWriter [.core] with hostIn := [0x0200000000000000] } : State).turns = .core :: [] ∧
    ({ demoWriter [.core] with hostIn := [0x0200000000000000] } : State).seq.phase = .idle ∧
    ({ demoWriter [.core] with hostIn := [0x0200000000000000] } : State).hostIn = 0x0200000000000000 :: [] ∧
    decode 0x0200000000000000#64 = .ok .wipe := ⟨⟨rfl, rfl, rfl⟩, rfl, rfl, rfl, rfl, by decide⟩

theorem witness_PlacedWordRunsNext : decode 0x0400000000000000#64 = .ok .bbox := by decide

theorem witness_IdleCoreWaits : demo.coresTurn ∧ demo.seq.phase = .idle ∧ demo.hostIn = [] := ⟨.inl rfl, rfl, rfl⟩

/-- Also for StepKeepsTheInvariant and ConfigurationNeverChanges, with `demo_inv`. -/
theorem witness_EveryCommandIsAnsweredOnce : ∃ t, step (demoHost [0x0400000000000000]) = .next t ∧ t.hostIn = [] :=
  ⟨_, rfl, rfl⟩

theorem witness_StepKeepsTheInvariant : demo.Inv ∧ step demo = .next demo := ⟨demo_inv, rfl⟩

/-- The last plane of the last row with BITS = 8, and an inner one. -/
theorem witness_SuccessorTable :
    (1 ≤ 8 ∧ 8 ≤ 8 ∧ (7 : Fin 8).val < 8 ∧ (7 : Fin 8).val = 8 - 1 ∧ (15 : Fin 16).val = 15 ∧ (63 : Fin 64).val = 63) ∧
    (3 : Fin 8).val = (2 : Fin 8).val + 1 ∧ (2 : Fin 8).val < 8 - 1 ∧ (4 : Fin 16).val = (3 : Fin 16).val + 1 ∧
    (30 : Fin 64).val = (29 : Fin 64).val + 1 := by decide

theorem witness_ScanStepIssuesOneCall : (demoAt .shift []).coresTurn ∧ (demoAt .shift []).seq.phase ≠ .idle :=
  ⟨.inl rfl, by simp [demoAt]⟩

theorem witness_RowSetDrivesTheRowLines : (demoAt .row [.ok]).coresTurn ∧ (demoAt .row [.ok]).seq.phase = .row ∧
    (demoAt .row [.ok]).answers = .ok :: [] := ⟨.inl rfl, rfl, rfl⟩

theorem witness_ColorSetPresentsThePlaneBit :
    ((demoAt .colorU [.ok]).coresTurn ∧ (demoAt .colorU [.ok]).cfgLegal ∧ (demoAt .colorU [.ok]).seqLegal ∧
      (demoAt .colorU [.ok]).seq.phase = .colorU ∧ (demoAt .colorU [.ok]).answers = .ok :: []) ∧
    (demoAt .colorL [.ok]).coresTurn ∧ (demoAt .colorL [.ok]).cfgLegal ∧ (demoAt .colorL [.ok]).seqLegal ∧
      (demoAt .colorL [.ok]).seq.phase = .colorL ∧ (demoAt .colorL [.ok]).answers = .ok :: [] := by
  simp [demoAt, demo, State.coresTurn, State.writerMayMove]

theorem witness_ShiftClocksInOneColumn : (demoAt .shift [.ok]).coresTurn ∧ (demoAt .shift [.ok]).seq.phase = .shift ∧
    (demoAt .shift [.ok]).answers = .ok :: [] := ⟨.inl rfl, rfl, rfl⟩

theorem witness_LatchTransfersTheLastColumns : (demoAt .latch [.ok]).coresTurn ∧ (demoAt .latch [.ok]).panelShaped ∧
    (demoAt .latch [.ok]).seq.phase = .latch ∧ (demoAt .latch [.ok]).answers = .ok :: [] :=
  ⟨.inl rfl, demo_panelShaped _ _, rfl, rfl⟩

/-- The last plane of row 15, which ends the pass, and of row 14, which does not. -/
theorem witness_ShowHoldsThePlane :
    ((demoAt .showing [.ok]).coresTurn ∧ (demoAt .showing [.ok]).cfgLegal ∧ (demoAt .showing [.ok]).seqLegal ∧
      (demoAt .showing [.ok]).seq.phase = .showing ∧ (demoAt .showing [.ok]).answers = .ok :: [] ∧
      3 = 2 ^ (demoAt .showing [.ok]).seq.plane.val * (demoAt .showing [.ok]).cfg.h /
        (2 ^ (demoAt .showing [.ok]).cfg.bits - 1)) ∧
    (({ demoAt .showing [.ok] with seq := ⟨.showing, 14, 0, 63⟩ } : State).seqLegal ∧
      ({ demoAt .showing [.ok] with seq := ⟨.showing, 14, 0, 63⟩ } : State).seq.row.val ≠ 15) := by
  simp [demoAt, demo, State.coresTurn, State.writerMayMove]

/-- At each of the six phases, also for FailedCallKeepsOtherFields. -/
theorem witness_FailedCallAbortsThePass : ∀ phase : Phase, phase ≠ .idle → (demoAt phase [.err ⟨1⟩]).coresTurn ∧
    (demoAt phase [.err ⟨1⟩]).seq.phase ≠ .idle ∧ (demoAt phase [.err ⟨1⟩]).answers = .err ⟨1⟩ :: [] :=
  fun _ h => ⟨.inl rfl, h, rfl⟩

theorem witness_OutputEnableStaysHigh : ({ demo with pins := { demo.pins with oe := true } } : State).pins.oe = true ∧
    ∃ t, step { demo with pins := { demo.pins with oe := true } } = .next t := ⟨rfl, _, rfl⟩

/-- `demo` with every call of a pass answered `ok`. -/
def demoAllOk : State := { demo with answers := List.replicate (callsPerPass 1) .ok }

/-- For the statements about a whole pass. -/
theorem witness_PassIssuesItsCallsInOrder :
    demoAllOk.coreMoves ∧ demoAllOk.seq.phase = .idle ∧ demoAllOk.cfg.constructed = true ∧ demoAllOk.cfgLegal ∧
      demoAllOk.okAhead (callsPerPass demoAllOk.cfg.bits) :=
  ⟨.inl rfl, rfl, rfl, fun _ => ⟨by decide, by decide⟩, by simp [State.okAhead, demoAllOk, demo]⟩

/-- `demo` whose call number `k` fails. -/
def demoFailsAt (k : Nat) : State := { demo with answers := List.replicate k .ok ++ .err ⟨1⟩ :: [] }

/-- The first and the last call of a pass. -/
theorem witness_PassAbortsAtTheFirstFailure : ∀ k ∈ [0, 3119],
    (demoFailsAt k).coreMoves ∧ (demoFailsAt k).seq.phase = .idle ∧ (demoFailsAt k).cfg.constructed = true ∧
      (demoFailsAt k).cfgLegal ∧ k < callsPerPass (demoFailsAt k).cfg.bits ∧
      (demoFailsAt k).answers = List.replicate k .ok ++ .err ⟨1⟩ :: [] := by
  intro k hk
  refine ⟨.inl rfl, rfl, rfl, fun _ => ⟨by show 1 ≤ 1; decide, by show 1 ≤ 8; decide⟩, ?_, rfl⟩
  show k < callsPerPass 1
  rcases List.mem_pair.1 hk with rfl | rfl <;> decide

/-- Both ends of the depth, for every statement that asks 1 ≤ BITS ≤ 8, and a plane of each. -/
theorem witness_PassCallIndices : (1 ≤ 1 ∧ 1 ≤ 8 ∧ (0 : Fin 8).val < 1) ∧ 1 ≤ 8 ∧ 8 ≤ 8 ∧ (7 : Fin 8).val < 8 := by decide

/-- P3 to P6 each, and a ratio that loses nothing to a floor. -/
theorem witness_DurationsAreBinaryWeighted : (1 ≤ 1 ∧ 1 ≤ 8) ∧ 1 < 2 ^ 8 - 1 ∧ (2 ^ 8 - 1) ∣ 510 ∧
    (demoAt .showing []).seq.phase = .showing ∧
    duration ({ demoAt .showing [] with cfg := ⟨8, 1, true⟩ } : State).cfg.bits 1 0 = 0 :=
  ⟨by decide, by decide, by decide, rfl, by decide⟩

theorem witness_CompensationIsTheFloor : 0 < 9 ∧ 9 < 10 := by decide

theorem witness_ConstructionLeavesTheResetTable : (1 : Int) ≤ 8 ∧ (8 : Int) ≤ 8 ∧ (0 : Int) < 1 ∧ (1 : Int) < (2 : Nat) := by
  decide

/-- CORE's WIPE, and a cell and a pixel of the second writer, each on a framebuffer that it changes. -/
theorem witness_OnlyWritersChangeTheFramebuffer :
    (∃ t, step { demoHost [0x0200000000000000] with fb := [(0, 7)] } = .next t ∧ t.fb ≠ [(0, 7)]) ∧
    (∃ t, step { demoWriter [.wipeCell 0] with fb := [(6143, 1)] } = .next t ∧ t.fb ≠ [(6143, 1)]) ∧
    ∃ t, step { demoWriter [.wrpix 63 31 0] with fb := [(6143, 1)] } = .next t ∧ t.fb ≠ [(6143, 1)] :=
  ⟨⟨_, rfl, by simp⟩, ⟨_, rfl, by decide⟩, _, rfl, by
    simp [demoWriter, State.writerTurn, State.writePixel, show mapCoord 63 31 = some ⟨.lower, 15, 63⟩ by decide,
      Mem.writeCell, Mem.write, Mem.without, demo, quantize, red5, grn6, blu5, idx5, idx6,
      Config.gammaFallback, FbAddr.base, Half.index]⟩

/-- A response of each status. -/
theorem witness_StatusCodesNameTheirCauses :
    (∃ t, step (demoHost [0x0400000000000000]) = .next t ∧ t.responses = [] ++ [⟨.ok, bboxData, none⟩]) ∧
    (∃ t, step (demoAt .showing [.ok]) = .next t ∧ t.responses = [] ++ [⟨.ok, 0, none⟩]) ∧
    (∃ t, step (demoAt .row [.err ⟨1⟩]) = .next t ∧ t.responses = [] ++ [⟨.extErr, 0, some ⟨1⟩⟩]) ∧
    (∃ t, step (demoHost [0]) = .next t ∧ t.responses = [] ++ [⟨.illegal, 0, none⟩]) ∧
    ∃ t, step { construct 8 3 2 with hostIn := [0] } = .next t ∧ t.responses = [] ++ [⟨.notConstructed, 0, none⟩] :=
  ⟨⟨_, rfl, rfl⟩, ⟨_, rfl, rfl⟩, ⟨_, rfl, rfl⟩, ⟨_, rfl, rfl⟩, _, rfl, rfl⟩

/-- Each clause: a pixel, a pending cell, a WIPE started over a pending one, a number with no pending cell, a pixel just
outside the box, and CORE's turn. -/
theorem witness_SecondWriterWritesOneCell :
    (demoWriter []).concurrentWrites = true ∧ (demoWriter []).cfg.constructed = true ∧
      ((demoWriter [.wrpix 63 31 5]).turns = .wrpix 63 31 5 :: [] ∧ mapCoord 63 31 = some ⟨.lower, 15, 63⟩) ∧
      ((demoWriter [.wipeCell 0]).turns = .wipeCell 0 :: [] ∧ (demoWriter [.wipeCell 0]).wiping[0]? = some ⟨.lower, 15, 63⟩) ∧
      ((demoWriter [.startWipe]).turns = .startWipe :: [] ∧ (demoWriter [.startWipe]).wiping ≠ []) ∧
      ((demoWriter [.wipeCell 1]).turns = .wipeCell 1 :: [] ∧ (demoWriter [.wipeCell 1]).wiping[1]? = none) ∧
      ((demoWriter [.wrpix 64 31 5]).turns = .wrpix 64 31 5 :: [] ∧ mapCoord 64 31 = none) ∧
      (demoWriter [.core]).turns = .core :: [] :=
  ⟨rfl, rfl, ⟨rfl, by decide⟩, ⟨rfl, rfl⟩, ⟨rfl, by simp [demoWriter]⟩, ⟨rfl, rfl⟩, ⟨rfl, by decide⟩, rfl⟩

theorem witness_ErrorValuesAreNeverInspected : (demoAt .row [.err ⟨1⟩]).answers ≠ [] := by simp [demoAt]

/-- A cell of each half. -/
theorem witness_WrittenPixelReachesTheNextPass :
    (demoAllOk.coreMoves ∧ demoAllOk.seq.phase = .idle ∧ demoAllOk.cfg.constructed = true ∧ demoAllOk.cfgLegal ∧
      demoAllOk.okAhead (callsPerPass demoAllOk.cfg.bits)) ∧
    mapCoord 63 31 = some ⟨.lower, 15, 63⟩ ∧ mapCoord 0 0 = some ⟨.upper, 0, 0⟩ ∧
    (0 : Fin 8).val < demoAllOk.cfg.bits :=
  ⟨witness_PassIssuesItsCallsInOrder, by decide, by decide, by decide⟩

end Sys2Proof.Tests
end

section
/-! PROOFS. 20_memory.md: the coordinates outside the box. -/

namespace Sys2Proof.Machine

/-- 20_memory.md R40, with the box's sides as numbers. -/
theorem inside_iff {x y : Int} : inside x y = true ↔ 0 ≤ x ∧ x < 64 ∧ 0 ≤ y ∧ y < 32 := by
  simp [inside, width, height]

/-- `map(x, y)` is undefined outside the box (20_memory.md R41). -/
theorem mapCoord_eq_none_of_outside {x y : Int} (h : ¬ (0 ≤ x ∧ x < 64 ∧ 0 ≤ y ∧ y < 32)) : mapCoord x y = none :=
  if_neg (mt inside_iff.mp h)

/-- Settles O14: the coordinate has no cell, so of WRPIX's effect only the response is left. -/
theorem wrpixOutsideIsDiscarded : Obligations.WrpixOutsideIsDiscarded := by
  intro s x y color hidle hconstructed houtside
  have hcell : mapCoord x y = none := mapCoord_eq_none_of_outside houtside
  calc exec (.wrpix x y color) s
    _ = s.onHostPort (effect (.wrpix x y color)) := exec_eq _ _
    _ = .next ((s.writePixel x y color).respond Response.done) := State.onHostPort_accepts hidle hconstructed _
    _ = .next (s.respond Response.done) := by rw [State.writePixel_none s color hcell]

end Sys2Proof.Machine
end

section
/-! PROOFS. 30_encoding.md: the bytes of a transported word, and the words that are no command. -/

namespace Sys2Proof

/-! ### The transport (R64) -/

/-- The transported bytes as a table over their number. -/
theorem bytesOfWord_eq_map (w : Word) :
    bytesOfWord w = (List.range 8).map fun k => w.extractLsb' (8 * k) 8 := rfl

/-- The eight byte fields of a word, put side by side, are the word: each is the neighbour of the fields above it. -/
theorem wordOfBytes_byteFields (w : Word) :
    wordOfBytes (w.extractLsb' 0 8) (w.extractLsb' 8 8) (w.extractLsb' 16 8) (w.extractLsb' 24 8)
      (w.extractLsb' 32 8) (w.extractLsb' 40 8) (w.extractLsb' 48 8) (w.extractLsb' 56 8) = w := by
  simp (disch := decide) only [wordOfBytes, BitVec.extractLsb'_append_extractLsb'_eq_extractLsb']
  exact BitVec.extractLsb'_eq_self

/-- The first eight bytes are read as one word, and the bytes after them are left over. -/
theorem decodeBytes_eight (b0 b1 b2 b3 b4 b5 b6 b7 : Byte) (rest : List Byte) :
    decodeBytes (b0 :: b1 :: b2 :: b3 :: b4 :: b5 :: b6 :: b7 :: rest) =
      (decode (wordOfBytes b0 b1 b2 b3 b4 b5 b6 b7)).map fun i => (i, rest) := by
  rw [decodeBytes]
  cases decode (wordOfBytes b0 b1 b2 b3 b4 b5 b6 b7) <;> rfl

/-- Settles O5: the eight byte fields are one word again, so reading them decodes that word. -/
theorem transportIsLittleEndian : Obligations.TransportIsLittleEndian := by
  intro w rest
  refine ⟨fun k hk => ?_, rfl, ?_⟩
  · simp [bytesOfWord_eq_map, hk]
  · calc decodeBytes (bytesOfWord w ++ rest)
      _ = (decode (wordOfBytes _ _ _ _ _ _ _ _)).map fun i => (i, rest) := decodeBytes_eight ..
      _ = (decode w).map fun i => (i, rest) := by rw [wordOfBytes_byteFields]

/-! ### The fields that decide legality, as numbers (R56 to R58) -/

theorem opcField_toNat (w : Word) : (opcField w).toNat = w.toNat / 2 ^ 56 := by
  have := w.isLt
  rw [opcField, BitVec.extractLsb'_toNat, Nat.shiftRight_eq_div_pow]
  omega

theorem rsvPixField_toNat (w : Word) : (rsvPixField w).toNat = w.toNat / 2 ^ 48 % 2 ^ 8 := by
  rw [rsvPixField, BitVec.extractLsb'_toNat, Nat.shiftRight_eq_div_pow]

theorem rsvNoneField_toNat (w : Word) : (rsvNoneField w).toNat = w.toNat % 2 ^ 56 := by
  rw [rsvNoneField, BitVec.extractLsb'_toNat, Nat.shiftRight_zero]

theorem opcField_eq_iff (w : Word) (b : Byte) : opcField w = b ↔ w.toNat / 2 ^ 56 = b.toNat := by
  rw [← BitVec.toNat_inj, opcField_toNat]

theorem rsvPixField_eq_zero_iff (w : Word) : rsvPixField w = 0 ↔ w.toNat / 2 ^ 48 % 2 ^ 8 = 0 := by
  rw [← BitVec.toNat_inj, rsvPixField_toNat]; rfl

theorem rsvNoneField_eq_zero_iff (w : Word) : rsvNoneField w = 0 ↔ w.toNat % 2 ^ 56 = 0 := by
  rw [← BitVec.toNat_inj, rsvNoneField_toNat]; rfl

/-! ### Which words are illegal (R63) -/

/-- Format PIX: a WRPIX word is illegal exactly when `cmd[55:48]` is not zero. -/
theorem decode_error_iff_of_pix {w : Word} (h : opcField w = 0x01#8) :
    (∃ e, decode w = .error e) ↔ rsvPixField w ≠ 0 := by
  by_cases hr : rsvPixField w = 0#8 <;> simp [decode, h, hr]

/-- Format NONE: the other three opcodes' words are illegal exactly when `cmd[55:0]` is not zero. -/
theorem decode_error_iff_of_none {w : Word}
    (h : opcField w = 0x02#8 ∨ opcField w = 0x03#8 ∨ opcField w = 0x04#8) :
    (∃ e, decode w = .error e) ↔ rsvNoneField w ≠ 0 := by
  by_cases hr : rsvNoneField w = 0#56 <;> rcases h with h | h | h <;> simp [decode, h, hr]

/-- No other opcode is defined. -/
theorem decode_undefinedOpcode {w : Word} (h1 : opcField w ≠ 0x01#8) (h2 : opcField w ≠ 0x02#8)
    (h3 : opcField w ≠ 0x03#8) (h4 : opcField w ≠ 0x04#8) :
    decode w = .error (.undefinedOpcode (opcField w)) := by
  simp [decode, h1, h2, h3, h4]

/-- The illegal words, told by the numbers in their fields. -/
theorem decode_error_iff (w : Word) :
    (∃ e, decode w = .error e) ↔
      w.toNat / 2 ^ 56 = 0 ∨ 5 ≤ w.toNat / 2 ^ 56 ∨
        (w.toNat / 2 ^ 56 = 1 ∧ w.toNat / 2 ^ 48 % 2 ^ 8 ≠ 0) ∨
        (2 ≤ w.toNat / 2 ^ 56 ∧ w.toNat / 2 ^ 56 ≤ 4 ∧ w.toNat % 2 ^ 56 ≠ 0) := by
  by_cases hpix : opcField w = 0x01#8
  · have hopc : w.toNat / 2 ^ 56 = 1 := (opcField_eq_iff w _).mp hpix
    rw [decode_error_iff_of_pix hpix, ne_eq, rsvPixField_eq_zero_iff]
    omega
  by_cases hnone : opcField w = 0x02#8 ∨ opcField w = 0x03#8 ∨ opcField w = 0x04#8
  · have hopc : w.toNat / 2 ^ 56 = 2 ∨ w.toNat / 2 ^ 56 = 3 ∨ w.toNat / 2 ^ 56 = 4 := by
      simpa [opcField_eq_iff] using hnone
    rw [decode_error_iff_of_none hnone, ne_eq, rsvNoneField_eq_zero_iff]
    omega
  · obtain ⟨h2, h3, h4⟩ : opcField w ≠ 0x02#8 ∧ opcField w ≠ 0x03#8 ∧ opcField w ≠ 0x04#8 := by
      simpa using hnone
    refine iff_of_true ⟨_, decode_undefinedOpcode hpix h2 h3 h4⟩ ?_
    simp only [ne_eq, opcField_eq_iff, BitVec.toNat_ofNat] at hpix h2 h3 h4
    omega

end Sys2Proof

namespace Sys2Proof.Machine

/-- On its turn CORE, free and constructed, takes the host's next word and leaves the word's own effect. -/
theorem step_hostWord {s : State} {w : Word} {rest : List Word} (hturn : s.coresTurn) (hidle : s.seq.phase = .idle)
    (hconstructed : s.cfg.constructed = true) (hhost : s.hostIn = w :: rest) :
    step s = .next (wordEffect w ((s.setTurns s.turnsLeft).setHostIn rest)) := by
  calc step s
    _ = coreStep (s.setTurns s.turnsLeft) := step_coresTurn hturn
    _ = runWord w ((s.setTurns s.turnsLeft).setHostIn rest) := by simp [coreStep, hidle, hhost]
    _ = ((s.setTurns s.turnsLeft).setHostIn rest).onHostPort (wordEffect w) := runWord_eq _ _
    _ = .next (wordEffect w ((s.setTurns s.turnsLeft).setHostIn rest)) :=
      State.onHostPort_accepts (by simpa) (by simpa) _

/-- Settles O3: the numbers in the fields tell the illegal words, and an illegal word's own effect is its response. -/
theorem illegalWordsCompleteWithoutEffect : Obligations.IllegalWordsCompleteWithoutEffect := by
  intro w
  refine ⟨decode_error_iff w, ?_⟩
  rintro s rest hturn hidle hconstructed hhost ⟨e, he⟩
  rw [step_hostWord hturn hidle hconstructed hhost, wordEffect_error he]
  rfl

end Sys2Proof.Machine
end

section
/-! PROOFS. 40_quantizer_framebuffer.md: WIPE and BBOX. -/

namespace Sys2Proof.Machine

/-- A free, constructed instance leaves exactly the command's own effect. -/
theorem exec_of_free {s : State} (hidle : s.seq.phase = .idle) (hconstructed : s.cfg.constructed = true) (i : Instr) :
    exec i s = .next (effect i s) :=
  (exec_eq i s).trans (State.onHostPort_accepts hidle hconstructed _)

/-- WIPE's own effect leaves the empty listing, whatever the framebuffer held (R80). -/
@[simp] theorem effect_wipe_fb (s : State) : (effect .wipe s).fb = [] := rfl

/-- WIPE's own effect reaches the framebuffer and the responses, nothing else (R80). -/
theorem effect_wipe_frame (s : State) :
    effect .wipe s = { s with fb := (effect .wipe s).fb, responses := s.responses ++ [⟨.ok, 0, none⟩] } := rfl

/-- Settles O16: the empty listing reads black at every cell, and the instance is still free for the second WIPE, which
leaves that listing again. -/
theorem wipeBlackensEveryCell : Obligations.WipeBlackensEveryCell := by
  intro s hidle hconstructed
  have hagain : exec .wipe (effect .wipe s) = .next (effect .wipe (effect .wipe s)) :=
    exec_of_free (s := effect .wipe s) hidle hconstructed .wipe
  refine ⟨effect .wipe s, exec_of_free hidle hconstructed .wipe, fun a => ?black, effect_wipe_frame s,
    effect .wipe (effect .wipe s), hagain, ?same⟩
  case black => rw [effect_wipe_fb, Mem.readCell_nil, Color.black]
  case same => rw [effect_wipe_fb, effect_wipe_fb]

/-- The rectangle's word: `HEIGHT` 32, `WIDTH` 64, `Y0` 0, `X0` 0 (30_encoding.md R67). -/
theorem bboxData_eq : bboxData = 0x0020004000000000#64 := by decide

/-- Settles O18: BBOX's own effect is the response that carries the rectangle's word. -/
theorem bboxReturnsTheRectangle : Obligations.BboxReturnsTheRectangle := by
  intro s hidle hconstructed
  refine ⟨bboxData, exec_of_free hidle hconstructed .bbox, bboxData_eq, ?_⟩
  rw [bboxData_eq]
  decide

end Sys2Proof.Machine
end

section
/-! PROOFS. 41_brightness_compensator.md: H as a floor. -/

namespace Sys2Proof.Machine

/-- Cleared of the inner denominators, `p · r / (1 − r)` at `r = num / den` is the fraction that CORE divides out (R83). -/
theorem onTime_eq_div {num den : Nat} (hratio : num < den) (p : Nat) :
    (p : ℚ) * ((num : ℚ) / den) / (1 - (num : ℚ) / den) = ((p * num : ℕ) : ℚ) / ((den - num : ℕ) : ℚ) := by
  have hden : (den : ℚ) ≠ 0 := Nat.cast_ne_zero.mpr (by omega)
  calc (p : ℚ) * ((num : ℚ) / den) / (1 - (num : ℚ) / den)
    _ = (p * num / den : ℚ) / ((den - num) / den) := by rw [one_sub_div hden, ← mul_div_assoc]
    _ = (p * num : ℚ) / (den - num) := div_div_div_cancel_right₀ hden _ _
    _ = ((p * num : ℕ) : ℚ) / ((den - num : ℕ) : ℚ) := by rw [Nat.cast_mul, Nat.cast_sub hratio.le]

/-- Settles O41: H is the natural quotient of that fraction, and the floor of a fraction of naturals is their quotient. -/
theorem compensationIsTheFloor : Obligations.CompensationIsTheFloor := by
  intro bits num den _ hratio
  rw [onTime_eq_div hratio, Rat.floor_natCast_div_natCast, compensationH, Int.natCast_ediv]

end Sys2Proof.Machine
end

section
/-! PROOFS. 42_scan_engine.md: a pass up to its first failed call. The calls still to issue, as a list, carry the
induction: each `ok` takes the first of them off, and an error ends the pass at the one it meets. -/

namespace Sys2Proof.Machine

/-! ### The length of the closed form (R106) -/

theorem planeCalls_length (m : Mem) (bits h : Nat) (row : Fin 16) (mask : Fin 8) :
    (planeCalls m bits h row mask).length = 194 := by
  simp [planeCalls, columnCalls, List.length_flatMap]

theorem rowCalls_length (m : Mem) (bits h : Nat) (row : Fin 16) :
    (rowCalls m bits h row).length = callsPerRow bits := by
  simp [rowCalls, callsPerRow, List.length_flatMap, planeCalls_length, planes, Function.comp_def]
  omega

theorem passCalls_length (m : Mem) (bits h : Nat) : (passCalls m bits h).length = callsPerPass bits := by
  simp [passCalls, callsPerPass, List.length_flatMap, rowCalls_length]
  omega

/-! ### One step of a pass, by the answer that comes in (R102, R107) -/

/-- An `ok` that does not end the pass: besides the lines, the panel and the display, only `SEQ`, the answers with
their count, and the trace move. -/
theorem scanStep_ok {s : State} {k : Call} {as : List Resp} (hcall : s.nextCall = some k)
    (hans : s.answers = .ok :: as) (hmore : (s.seq.succ s.cfg.bits).phase ≠ .idle) :
    s.scanStep =
      { s with
        seq := s.seq.succ s.cfg.bits, answers := as, draws := s.draws + 1, trace := s.trace ++ [k.okEvent]
        pins := s.scanStep.pins, panel := s.scanStep.panel, display := s.scanStep.display } := by
  rw [State.scanStep_eq hcall, State.issue_ok k (State.nextAnswer_cons hans), okEffects_frame]
  simp [State.advance, hmore, State.setSeq, State.consumeAnswer, State.record, hans, Call.okEvent]

/-- A failed call: besides the lines and the panel, only the phase, the answers with their count, the trace and the
responses move. -/
theorem scanStep_err {s : State} {k : Call} {e : Err} {as : List Resp} (hcall : s.nextCall = some k)
    (hans : s.answers = .err e :: as) :
    s.scanStep =
      { s with
        seq := { s.seq with phase := .idle }, answers := as, draws := s.draws + 1
        trace := s.trace ++ [⟨k, .err e⟩], responses := s.responses ++ [⟨.extErr, 0, some e⟩]
        pins := s.scanStep.pins, panel := s.scanStep.panel } := by
  rw [State.scanStep_eq hcall, State.issue_err k (State.nextAnswer_cons hans), failedEffects_frame]
  simp [State.raiseExtError, State.setSeq, State.consumeAnswer, State.record, State.respond, hans, Response.extErr]

/-- `succ` keeps the plane below BITS (10_state.md R32). -/
theorem Seq.succ_plane_lt {bits : Nat} {q : Seq} (hle : bits ≤ 8) (hplane : q.plane.val < bits) :
    (q.succ bits).plane.val < bits := by
  have hzero : 0 < bits := by omega
  rcases q with ⟨phase, row, plane, col⟩
  cases phase with
  | row => exact hzero
  | shift => by_cases hcol : col.val < 63 <;> simpa [Seq.succ, hcol]
  | showing =>
    by_cases hnext : plane.val + 1 < bits
    · have : (plane.val + 1) % 8 = plane.val + 1 := by omega
      simp [Seq.succ, hnext, this]
    · by_cases hrow : row.val < 15 <;> simpa [Seq.succ, hnext, hrow]
  | _ => exact hplane

/-! ### The calls still to issue, along a pass -/

/-- No second writer moves, and `calls` are those that the pass in progress has still to issue. -/
structure State.Scanning (s : State) (calls : List Call) : Prop where
  coreMoves : s.coreMoves
  bits_pos : 1 ≤ s.cfg.bits
  bits_le : s.cfg.bits ≤ 8
  plane_lt : s.seq.plane.val < s.cfg.bits
  calls_eq : callsFrom s.fb s.cfg.bits s.cfg.h s.seq = calls

/-- At the start that OUTPUT sets, the whole closed form is left. -/
theorem State.scanning_start {s : State} (hcore : s.coreMoves) (hpos : 1 ≤ s.cfg.bits) (hle : s.cfg.bits ≤ 8) :
    (s.setSeq ⟨.row, 0, 0, 0⟩).Scanning (passCalls s.fb s.cfg.bits s.cfg.h) :=
  ⟨hcore, hpos, hle, hpos, callsFrom_start ..⟩

/-- While IDLE no call is left. -/
theorem callsFrom_idle {m : Mem} {bits h : Nat} {q : Seq} (hq : q.phase = .idle) : callsFrom m bits h q = [] := by
  simp [callsFrom, hq]

/-- While a call is left, the pass is in progress. -/
theorem State.Scanning.phase_ne_idle {s : State} {k : Call} {ks : List Call} (hs : s.Scanning (k :: ks)) :
    s.seq.phase ≠ .idle := fun hidle => by
  simpa [callsFrom_idle hidle] using hs.calls_eq

/-- The call that `SEQ` names is the first of those left; the others are left after it. -/
theorem State.Scanning.nextCall_and_rest {s : State} {k : Call} {ks : List Call} (hs : s.Scanning (k :: ks)) :
    s.nextCall = some k ∧ callsFrom s.fb s.cfg.bits s.cfg.h (s.seq.succ s.cfg.bits) = ks := by
  obtain ⟨k', hk'⟩ := State.nextCall_isSome hs.phase_ne_idle
  obtain ⟨rfl, rfl⟩ := List.cons.inj (hs.calls_eq.symm.trans (callsFrom_succ hs.bits_pos hs.bits_le hs.plane_lt hk'))
  exact ⟨hk', rfl⟩

/-- What the calls `done`, each answered `ok`, leave of `s` in `t`, the lines, the panel and the display aside. -/
structure State.AfterOk (s : State) (done : List Call) (t : State) : Prop where
  answers : s.answers = List.replicate done.length .ok ++ t.answers
  trace : t.trace = s.trace ++ done.map Call.okEvent
  responses : t.responses = s.responses
  fb : t.fb = s.fb
  cfg : t.cfg = s.cfg
  hostIn : t.hostIn = s.hostIn

/-- No call: nothing moved. -/
theorem State.AfterOk.nil (s : State) : s.AfterOk [] s :=
  ⟨rfl, (List.append_nil _).symm, rfl, rfl, rfl, rfl⟩

/-- An `ok` to the first of the calls left, others following, leaves those others. -/
theorem State.Scanning.step_ok {s : State} {k : Call} {ks : List Call} {as : List Resp}
    (hs : s.Scanning (k :: ks)) (hks : ks ≠ []) (hans : s.answers = .ok :: as) :
    s.scanStep.Scanning ks ∧ s.AfterOk [k] s.scanStep := by
  obtain ⟨hcall, hrest⟩ := hs.nextCall_and_rest
  have hmore : (s.seq.succ s.cfg.bits).phase ≠ .idle := fun hidle => hks (hrest ▸ callsFrom_idle hidle)
  have hmoves : s.scanStep.coreMoves := scanStep_coreMoves hs.coreMoves
  rw [scanStep_ok hcall hans hmore] at hmoves ⊢
  exact ⟨⟨hmoves, hs.bits_pos, hs.bits_le, Seq.succ_plane_lt hs.bits_le hs.plane_lt, hrest⟩,
    ⟨hans, rfl, rfl, rfl, rfl, rfl⟩⟩

/-- Runs of calls that return `ok` follow one another. -/
theorem State.AfterOk.trans {s t u : State} {xs ys : List Call} (hst : s.AfterOk xs t) (htu : t.AfterOk ys u) :
    s.AfterOk (xs ++ ys) u where
  answers := by
    rw [hst.answers, htu.answers, List.length_append, ← List.replicate_append_replicate, List.append_assoc]
  trace := by simp [htu.trace, hst.trace]
  responses := htu.responses.trans hst.responses
  fb := htu.fb.trans hst.fb
  cfg := htu.cfg.trans hst.cfg
  hostIn := htu.hostIn.trans hst.hostIn

/-- As many steps as there are `ok` answers issue that many of the calls left, while a call is left after them. -/
theorem State.Scanning.run_ok {done ks : List Call} {k : Call} {as : List Resp} {s : State}
    (hs : s.Scanning (done ++ k :: ks)) (hans : s.answers = List.replicate done.length .ok ++ as) :
    ∃ t : State, core.run done.length s = .next t ∧ t.Scanning (k :: ks) ∧ s.AfterOk done t := by
  induction done generalizing s with
  | nil => exact ⟨s, rfl, hs, .nil s⟩
  | cons c done ih =>
    obtain ⟨hs', hafter⟩ := hs.step_ok (by simp) hans
    have hans' : s.scanStep.answers = List.replicate done.length .ok ++ as :=
      (List.cons.inj (hans.symm.trans hafter.answers)).2.symm
    obtain ⟨t, hrun, ht, hafter'⟩ := ih hs' hans'
    exact ⟨t, (run_succ _ s _ (step_scan hs.coreMoves hs.phase_ne_idle)).trans hrun, ht, hafter.trans hafter'⟩

/-- Where the call after some `ok` ones fails, it is issued too, and the pass ends with its error (R107). -/
theorem State.Scanning.run_abort {done ks : List Call} {c : Call} {e : Err} {as : List Resp} {s : State}
    (hs : s.Scanning (done ++ c :: ks)) (hans : s.answers = List.replicate done.length .ok ++ .err e :: as) :
    ∃ t : State, core.run (done.length + 1) s = .next t ∧
      t.trace = s.trace ++ done.map Call.okEvent ++ [⟨c, .err e⟩] ∧
      t.responses = s.responses ++ [⟨.extErr, 0, some e⟩] ∧
      t.seq.phase = .idle ∧ t.fb = s.fb ∧ t.cfg = s.cfg ∧ t.hostIn = s.hostIn ∧ t.answers = as := by
  obtain ⟨t, hrun, ht, hafter⟩ := hs.run_ok hans
  have hfail : t.answers = .err e :: as := List.append_cancel_left (hafter.answers.symm.trans hans)
  have hlast : core.run 1 t = .next t.scanStep :=
    run_succ (M := core) 0 t _ (step_scan ht.coreMoves ht.phase_ne_idle)
  refine ⟨t.scanStep, (run_add (M := core) _ 1 s t hrun).trans hlast, ?_⟩
  rw [scanStep_err ht.nextCall_and_rest.1 hfail, ← hafter.trace, ← hafter.responses]
  exact ⟨rfl, rfl, rfl, hafter.fb, hafter.cfg, hafter.hostIn, rfl⟩

/-- Settles O39: the closed form is cut at call `k`; the calls before it return `ok` and it aborts the pass. -/
theorem passAbortsAtTheFirstFailure : Obligations.PassAbortsAtTheFirstFailure := by
  intro s k e rest hcore hidle hconstructed hlegal hk hans
  obtain ⟨hpos, hle⟩ := hlegal hconstructed
  have hlt : k < (passCalls s.fb s.cfg.bits s.cfg.h).length := by rwa [passCalls_length]
  have hdone : ((passCalls s.fb s.cfg.bits s.cfg.h).take k).length = k := List.length_take_of_le hlt.le
  have hstart : (effect .output s).Scanning ((passCalls s.fb s.cfg.bits s.cfg.h).take k ++
      (passCalls s.fb s.cfg.bits s.cfg.h)[k] :: (passCalls s.fb s.cfg.bits s.cfg.h).drop (k + 1)) := by
    rw [← List.drop_eq_getElem_cons hlt, List.take_append_drop]
    exact State.scanning_start hcore hpos hle
  obtain ⟨t, hrun, hend⟩ := hstart.run_abort (by rwa [hdone])
  rw [hdone] at hrun
  exact ⟨_, t, _, exec_of_free hidle hconstructed .output, hrun, List.getElem?_eq_getElem hlt, hend⟩

end Sys2Proof.Machine
end

section
/-! PROOFS. 60_exceptions.md: the failed call that ends a pass, and the instance that was not constructed. -/

namespace Sys2Proof.Machine

/-- Settles O34: on CORE's turn during a pass the step is the scan engine's once the turn is used up, and its call
fails. -/
theorem failedCallAbortsThePass : Obligations.FailedCallAbortsThePass := by
  intro s e rest hturn hpass hans
  obtain ⟨k, hcall⟩ := State.nextCall_isSome hpass
  exact ⟨k, _, hcall, step_scan_coresTurn hturn hpass, scanStep_err (s := s.setTurns s.turnsLeft) hcall hans⟩

/-- An instance that was not constructed has no second writer (20_memory.md R52, 60_exceptions.md R115). -/
theorem State.writerMayMove_of_not_constructed {s : State} (hinert : s.cfg.constructed = false) :
    s.writerMayMove = false := by
  simp [State.writerMayMove, hinert]

/-- An idle instance that was not constructed takes the host's next word and answers NOT_CONSTRUCTED, whatever the word
decodes to (60_exceptions.md R115, R116). -/
theorem step_hostWord_of_not_constructed {s : State} {w : Word} {rest : List Word}
    (hinert : s.cfg.constructed = false) (hidle : s.seq.phase = .idle) (hhost : s.hostIn = w :: rest) :
    step s = .next ((s.setHostIn rest).respond Response.notConstructed) := by
  calc step s
    _ = coreStep s := step_core (.inl (State.writerMayMove_of_not_constructed hinert))
    _ = runWord w (s.setHostIn rest) := by simp [coreStep, hidle, hhost]
    _ = (s.setHostIn rest).onHostPort (wordEffect w) := runWord_eq _ _
    _ = .next ((s.setHostIn rest).respond Response.notConstructed) :=
      State.onHostPort_inert (by simpa) (by simpa) _

/-- Settles O21: the host port answers a command and a word alike, before either has an effect of its own. -/
theorem unconstructedInstanceIsInert : Obligations.UnconstructedInstanceIsInert := by
  intro s hinert hidle
  refine ⟨?faulted, fun i => ?command, fun w rest hhost => ?word⟩
  case faulted => rw [State.faulted, hinert, Bool.not_false]
  case command => exact (exec_eq i s).trans (State.onHostPort_inert hidle hinert _)
  case word => exact step_hostWord_of_not_constructed hinert hidle hhost

end Sys2Proof.Machine
end

section
/-! PROOFS. 70_reset_and_hazards.md: when construction succeeds. -/

namespace Sys2Proof.Machine

/-- The construction checks as a proposition (70_reset_and_hazards.md R127). -/
theorem constructOk_iff {bits num : Int} {den : Nat} :
    constructOk bits num den = true ↔ (1 ≤ bits ∧ bits ≤ 8) ∧ 0 < den ∧ 0 < num ∧ num < (den : Int) := by
  rw [constructOk, decide_eq_true_iff, and_assoc]

/-- The instance is marked constructed exactly as the checks answer: a built state is, the inert one is not
(70_reset_and_hazards.md R126). -/
@[simp] theorem construct_constructed (bits num : Int) (den : Nat) :
    (construct bits num den).cfg.constructed = constructOk bits num den := by
  unfold construct
  split
  case isTrue hok => exact hok.symm
  case isFalse hbad => exact (Bool.eq_false_of_not_eq_true hbad).symm

/-- Settles O46: the mark is the checks' answer, and the checks are the two conditions of R127. -/
theorem constructionSucceedsExactly : Obligations.ConstructionSucceedsExactly := by
  intro bits num den
  rw [construct_constructed, constructOk_iff]

end Sys2Proof.Machine
end

section
/-! PROOFS. 30_encoding.md: the decoder and the encoder undo each other. -/

namespace Sys2Proof

/-! ### The fields of a command's word (R57, R58) -/

theorem rsvPixField_encode_wrpix (x y : Int) (color : Rgb565) : rsvPixField (encode (.wrpix x y color)) = 0 := by
  simp (disch := decide) only [rsvPixField, encode, BitVec.extractLsb'_append_eq_of_le, Nat.reduceSub,
    BitVec.extractLsb'_append_eq_right]
  rfl

theorem colorField_encode_wrpix (x y : Int) (color : Rgb565) : colorField (encode (.wrpix x y color)) = color := by
  simp (disch := decide) only [colorField, encode, BitVec.extractLsb'_append_eq_of_le, Nat.reduceSub,
    BitVec.extractLsb'_append_eq_right]

theorem yField_encode_wrpix (x y : Int) (color : Rgb565) :
    yField (encode (.wrpix x y color)) = BitVec.ofInt 16 y := by
  simp (disch := decide) only [yField, encode, BitVec.extractLsb'_append_eq_of_le, Nat.reduceSub,
    BitVec.extractLsb'_append_eq_right]

theorem xField_encode_wrpix (x y : Int) (color : Rgb565) :
    xField (encode (.wrpix x y color)) = BitVec.ofInt 16 x := by
  rw [xField, encode, BitVec.extractLsb'_append_eq_right]

/-- A signed 16-bit field carries each of its values unchanged (R59). -/
theorem int16_ofInt {z : Int} (hz : fitsInt16 z = true) : int16 (BitVec.ofInt 16 z) = z := by
  obtain ⟨hlow, hhigh⟩ : -32768 ≤ z ∧ z ≤ 32767 := by simpa [fitsInt16] using hz
  exact BitVec.toInt_ofInt_eq_self (by decide) (by omega) (by omega)

/-- What a signed 16-bit field holds is one of its values (R59). -/
theorem fitsInt16_int16 (f : BitVec 16) : fitsInt16 (int16 f) = true := by
  have hlow : -32768 ≤ f.toInt := f.le_toInt
  have hhigh : f.toInt ≤ 32767 := f.toInt_le
  simp [fitsInt16, int16, hlow, hhigh]

/-- Settles O1: the opcode field is the command's, the reserved field is zero, and each operand field holds its
operand. -/
theorem decodeOfEncodedInstr : Obligations.DecodeOfEncodedInstr := by
  intro i hwf
  cases i with
  | wrpix x y color =>
    obtain ⟨hx, hy⟩ : fitsInt16 x = true ∧ fitsInt16 y = true := by simpa [Instr.wellFormed] using hwf
    have hopc : opcField (encode (.wrpix x y color)) = 0x01#8 := Laws.OpcodeField.wrpix x y color
    simp [decode, hopc, rsvPixField_encode_wrpix, xField_encode_wrpix, yField_encode_wrpix, colorField_encode_wrpix,
      int16_ofInt, hx, hy]
  | wipe => decide
  | output => decide
  | bbox => decide

/-! ### A word is its fields, side by side (R57, R58) -/

theorem word_eq_pixFields (w : Word) :
    w = opcField w ++ rsvPixField w ++ colorField w ++ yField w ++ xField w := by
  simp (disch := decide) only [opcField, rsvPixField, colorField, yField, xField,
    BitVec.extractLsb'_append_extractLsb'_eq_extractLsb']
  exact BitVec.extractLsb'_eq_self.symm

theorem word_eq_noneFields (w : Word) : w = opcField w ++ rsvNoneField w := by
  simp (disch := decide) only [opcField, rsvNoneField, BitVec.extractLsb'_append_extractLsb'_eq_extractLsb']
  exact BitVec.extractLsb'_eq_self.symm

/-- Which word decodes to which command: the opcode names the command, the reserved bits are zero, and a WRPIX has its
operands in the other fields (R62). -/
theorem fields_of_decode {w : Word} {i : Instr} (h : decode w = .ok i) :
    (opcField w = 0x01#8 ∧ rsvPixField w = 0 ∧ i = .wrpix (int16 (xField w)) (int16 (yField w)) (colorField w)) ∨
      (rsvNoneField w = 0 ∧
        (opcField w = 0x02#8 ∧ i = .wipe ∨ opcField w = 0x03#8 ∧ i = .output ∨ opcField w = 0x04#8 ∧ i = .bbox)) := by
  unfold decode at h
  split_ifs at h <;> cases h <;> simp [*]

/-- Settles O2: the decoded word is its fields side by side, and the encoder puts those very fields there. -/
theorem encodeOfDecodedWord : Obligations.EncodeOfDecodedWord := by
  intro w i h
  obtain ⟨hopc, hrsv, rfl⟩ | ⟨hrsv, ⟨hopc, rfl⟩ | ⟨hopc, rfl⟩ | ⟨hopc, rfl⟩⟩ := fields_of_decode h
  · refine ⟨by simp [Instr.wellFormed, fitsInt16_int16], ?_⟩
    rw [encode, int16, int16, BitVec.ofInt_toInt, BitVec.ofInt_toInt]
    conv_rhs => rw [word_eq_pixFields w, hopc, hrsv]
    rfl
  all_goals
    refine ⟨rfl, ?_⟩
    conv_rhs => rw [word_eq_noneFields w, hopc, hrsv]
    rfl

end Sys2Proof
end

section
/-! PROOFS. 30_encoding.md: the assembler, and the fields of a colour. -/

namespace Sys2Proof.Machine

/-! ### Every command that a line stands for fits its word (R69) -/

/-- A reader in two parts succeeds where the first part does and the second does on its result. -/
theorem bind_eq_ok_iff {ε α β : Type} {x : Except ε α} {f : α → Except ε β} {b : β} :
    (x >>= f) = .ok b ↔ ∃ a, x = .ok a ∧ f a = .ok b := by
  cases x <;> simp [bind, Except.bind]

theorem checkedWrpix_wellFormed {x y : Int} {color : Rgb565} {i : Instr} (h : checkedWrpix x y color = .ok i) :
    i.wellFormed = true := by
  unfold checkedWrpix at h
  split_ifs at h with hfits
  cases h
  exact hfits

theorem readPixel_wellFormed {ts : List AsmToken} {p : Instr × List AsmToken} (h : readPixel ts = .ok p) :
    p.1.wellFormed = true := by
  unfold readPixel at h
  split at h
  case h_1 =>
    obtain ⟨⟨color, rest⟩, -, h⟩ := bind_eq_ok_iff.1 h
    obtain ⟨i, hi, h⟩ := bind_eq_ok_iff.1 h
    cases h
    exact checkedWrpix_wellFormed hi
  case h_2 => cases h

theorem readPixels_wellFormed {fuel : Nat} {ts : List AsmToken} {is : List Instr} (h : readPixels fuel ts = .ok is) :
    ∀ i ∈ is, i.wellFormed = true := by
  induction fuel generalizing ts is with
  | zero => cases h
  | succ fuel ih =>
    unfold readPixels at h
    split at h
    case h_1 n rest hn =>
      cases hn
      obtain ⟨p, hp, h⟩ := bind_eq_ok_iff.1 h
      have hwf := readPixel_wellFormed hp
      split at h
      case h_1 => cases h; simpa using hwf
      case h_2 =>
        obtain ⟨js, hjs, h⟩ := bind_eq_ok_iff.1 h
        cases h
        exact List.forall_mem_cons.2 ⟨hwf, ih hjs⟩
      case h_3 => cases h
    case h_2 => cases h

theorem readLine_wellFormed {ts : List AsmToken} {is : List Instr} (h : readLine ts = .ok is) :
    ∀ i ∈ is, i.wellFormed = true := by
  unfold readLine at h
  split at h
  case h_5 =>
    obtain ⟨p, hp, h⟩ := bind_eq_ok_iff.1 h
    have hwf := readPixel_wellFormed hp
    split at h
    case h_1 => cases h; simpa using hwf
    case h_2 => cases h
  case h_7 => exact readPixels_wellFormed h
  case h_8 => cases h
  all_goals
    cases h
    simp [Instr.wellFormed]

/-- Settles O6: each command of the line fits its word, so decoding the word gives the command back. -/
theorem assembledLinesDecode : Obligations.AssembledLinesDecode := by
  intro line is hparse
  refine ⟨is.map encode, by rw [assembleLine, hparse]; rfl, ?_⟩
  obtain ⟨ts, -, hread⟩ := bind_eq_ok_iff.1 hparse
  rw [List.map_map]
  exact List.map_congr_left fun i hi => decodeOfEncodedInstr i (readLine_wellFormed hread i hi)

/-! ### The pseudo-operand `rgb` (R70), and the colour's fields as numbers (R60) -/

theorem red5_toNat (c : Rgb565) : (red5 c).toNat = c.toNat / 2048 := by
  have := c.isLt
  rw [red5, BitVec.extractLsb'_toNat, Nat.shiftRight_eq_div_pow]
  omega

theorem grn6_toNat (c : Rgb565) : (grn6 c).toNat = c.toNat / 32 % 64 := by
  rw [grn6, BitVec.extractLsb'_toNat, Nat.shiftRight_eq_div_pow]

theorem blu5_toNat (c : Rgb565) : (blu5 c).toNat = c.toNat % 32 := by
  rw [blu5, BitVec.extractLsb'_toNat, Nat.shiftRight_zero]

/-- The three fields of a packed colour are what was packed. -/
theorem channels_append (r : BitVec 5) (g : BitVec 6) (b : BitVec 5) :
    red5 (r ++ g ++ b) = r ∧ grn6 (r ++ g ++ b) = g ∧ blu5 (r ++ g ++ b) = b := by
  simp (disch := decide) only [red5, grn6, blu5, BitVec.extractLsb'_append_eq_of_le, Nat.reduceSub,
    BitVec.extractLsb'_append_eq_right]
  simp

/-- Settles O7: each value in range is its field's number, and the check refuses every other. -/
theorem rgbOperandPacksItsChannels : Obligations.RgbOperandPacksItsChannels := by
  refine ⟨fun r g b hr hg hb => ?_, fun r g b hout => if_neg hout⟩
  obtain ⟨hred, hgreen, hblue⟩ := channels_append (BitVec.ofInt 5 r) (BitVec.ofInt 6 g) (BitVec.ofInt 5 b)
  refine ⟨_, if_pos (by omega), ?_, ?_, ?_⟩
  · rw [hred, BitVec.ofInt_natCast, BitVec.toNat_ofNat, Nat.mod_eq_of_lt (by omega)]
  · rw [hgreen, BitVec.ofInt_natCast, BitVec.toNat_ofNat, Nat.mod_eq_of_lt (by omega)]
  · rw [hblue, BitVec.ofInt_natCast, BitVec.toNat_ofNat, Nat.mod_eq_of_lt (by omega)]

/-- Settles O4: fixed lines and words, each read by the assembler or the decoder. -/
theorem specWordsDecode : Obligations.SpecWordsDecode := by
  unfold Obligations.SpecWordsDecode
  decide

end Sys2Proof.Machine
end

section
/-! PROOFS. 40_quantizer_framebuffer.md: the gamma table and the quantizer. -/

namespace Sys2Proof.Machine

/-- Settles O10: the index formulas are the definition, and a channel's width bounds them. -/
theorem lutIndicesFollowTheFormula : Obligations.LutIndicesFollowTheFormula := by
  refine ⟨fun v => ?_, fun v => ?_, fun c => ⟨red5_toNat c, grn6_toNat c, blu5_toNat c⟩⟩
  · have := v.isLt
    simp only [idx5, true_and]
    omega
  · have := v.isLt
    simp only [idx6, true_and]
    omega

/-- The white colour's channels all index the table's last entry (R75). -/
theorem quantize_white (lut : Lut) :
    quantize lut 0xFFFF = ⟨lut[(255 : Fin 256)], lut[(255 : Fin 256)], lut[(255 : Fin 256)]⟩ := rfl

/-- Settles O11: a lawful table ends in 255 (R73 L3), and the black colour's indices compute. -/
theorem extremeColoursQuantize : Obligations.ExtremeColoursQuantize := by
  rintro lut ⟨-, -, hlast, -⟩
  exact ⟨by rw [quantize_white, hlast], rfl⟩

theorem gammaFallback_getElem (i : Fin 256) : Config.gammaFallback[i] = if i = 255 then 255 else 0 := by
  simp [Config.gammaFallback]

/-- The table that stands in for an unlawful seed is lawful itself. -/
theorem gammaFallback_lawful : Config.gammaFallback.Lawful := by
  refine ⟨fun i j hij => ?_, gammaFallback_getElem 0, gammaFallback_getElem 255, 1, ?_⟩
  · rw [gammaFallback_getElem, gammaFallback_getElem]
    by_cases hi : i = 255
    · have hj : j = 255 := by omega
      simp [hi, hj]
    · rw [if_neg hi]
      exact Nat.zero_le _
  · rw [gammaFallback_getElem]
    decide

/-- Settles O12: the seed is taken only where it is lawful, and the fallback is lawful. -/
theorem gammaMeetsItsLaws : Obligations.GammaMeetsItsLaws := by
  unfold Obligations.GammaMeetsItsLaws Config.gamma
  split
  case isTrue hseed => exact hseed
  case isFalse => exact gammaFallback_lawful

end Sys2Proof.Machine
end

section
/-! PROOFS. One step of the machine, as an inductive predicate: an invariant of the step is then a case analysis over
what can happen. -/

namespace Sys2Proof.Machine

/-- What one step can make of a state: CORE's next panel-port call, a wait, the host's next word, or a turn of the
second writer. On CORE's turn the turn is used up first. -/
inductive State.StepsTo (s : State) : State → Prop
  | scan (turn : s.coresTurn) (pass : s.seq.phase ≠ .idle) : s.StepsTo (s.setTurns s.turnsLeft).scanStep
  | wait (turn : s.coresTurn) (idle : s.seq.phase = .idle) (noWord : s.hostIn = []) :
      s.StepsTo (s.setTurns s.turnsLeft)
  | command (turn : s.coresTurn) (idle : s.seq.phase = .idle) (constructed : s.cfg.constructed = true)
      {w : Word} {ws : List Word} {i : Instr} (host : s.hostIn = w :: ws) (decoded : decode w = .ok i) :
      s.StepsTo (effect i ((s.setTurns s.turnsLeft).setHostIn ws))
  | illegal (turn : s.coresTurn) (idle : s.seq.phase = .idle) (constructed : s.cfg.constructed = true)
      {w : Word} {ws : List Word} {e : DecodeError} (host : s.hostIn = w :: ws) (undecoded : decode w = .error e) :
      s.StepsTo (((s.setTurns s.turnsLeft).setHostIn ws).respond Response.illegal)
  | inert (turn : s.coresTurn) (idle : s.seq.phase = .idle) (notConstructed : s.cfg.constructed = false)
      {w : Word} {ws : List Word} (host : s.hostIn = w :: ws) :
      s.StepsTo (((s.setTurns s.turnsLeft).setHostIn ws).respond Response.notConstructed)
  | writer (mayMove : s.writerMayMove = true) {turn : WriterTurn} {turns : List WriterTurn}
      (head : s.turns = turn :: turns) (notCore : turn ≠ .core) : s.StepsTo ((s.setTurns turns).writerTurn turn)

/-- Every step answers a next state, which is one of those. -/
theorem step_stepsTo (s : State) : ∃ t, step s = .next t ∧ s.StepsTo t := by
  rcases step_cases s with ⟨turn, hstep⟩ | ⟨_, _, mayMove, head, notCore, hstep⟩
  case inr => exact ⟨_, hstep, .writer mayMove head notCore⟩
  rcases coreStep_cases (s.setTurns s.turnsLeft) with
    ⟨pass, hcore⟩ | ⟨idle, noWord, hcore⟩ | ⟨w, ws, idle, host, hcore⟩
  · exact ⟨_, hstep.trans hcore, .scan turn pass⟩
  · exact ⟨_, hstep.trans hcore, .wait turn idle noWord⟩
  have idle' : ((s.setTurns s.turnsLeft).setHostIn ws).seq.phase = .idle := idle
  rw [hstep, hcore, runWord_eq]
  cases hconstructed : s.cfg.constructed
  · exact ⟨_, State.onHostPort_inert idle' hconstructed _, .inert turn idle hconstructed host⟩
  · rw [State.onHostPort_accepts idle' hconstructed]
    cases hdecode : decode w with
    | ok i => exact ⟨_, by rw [wordEffect_ok hdecode], .command turn idle hconstructed host hdecode⟩
    | error e => exact ⟨_, by rw [wordEffect_error hdecode], .illegal turn idle hconstructed host hdecode⟩

/-- The state after a step is one of those that a step can make. -/
theorem stepsTo_of_step {s t : State} (h : step s = .next t) : s.StepsTo t := by
  obtain ⟨t', ht', hsteps⟩ := step_stepsTo s
  obtain rfl : t' = t := Host.Outcome.next.inj (ht'.symm.trans h)
  exact hsteps

/-- Settles O25: a command is answered by the host port, and a step by CORE or the second writer. -/
theorem nothingEverStops : Obligations.NothingEverStops := by
  refine ⟨fun i s => ?_, fun s => ?_⟩
  · obtain ⟨t, ht, -⟩ := s.onHostPort_cases (effect i)
    exact ⟨t, (exec_eq i s).trans ht⟩
  · obtain ⟨t, ht, -⟩ := step_stepsTo s
    exact ⟨t, ht⟩

end Sys2Proof.Machine
end

section
/-! PROOFS. The invariant: every operation keeps it, hence every step does. -/

namespace Sys2Proof.Machine

namespace State.Inv

variable {s : State}

theorem setFb (hs : s.Inv) {m : Mem} (hm : m.wf) : (s.setFb m).Inv :=
  ⟨hm, hs.lutLawful, hs.cfgLegal, hs.seqLegal, hs.panelShaped, hs.responsesShaped⟩

theorem setSeq (hs : s.Inv) {q : Seq} (hq : q.phase ≠ .idle → s.cfg.constructed = true ∧ q.plane.val < s.cfg.bits) :
    (s.setSeq q).Inv :=
  ⟨hs.fbWf, hs.lutLawful, hs.cfgLegal, hq, hs.panelShaped, hs.responsesShaped⟩

theorem setPins (hs : s.Inv) (p : Pins) : (s.setPins p).Inv :=
  ⟨hs.fbWf, hs.lutLawful, hs.cfgLegal, hs.seqLegal, hs.panelShaped, hs.responsesShaped⟩

theorem setPanel (hs : s.Inv) {p : Panel} (hp : 64 ≤ p.sr.length ∧ p.out.length = 64) : (s.setPanel p).Inv :=
  ⟨hs.fbWf, hs.lutLawful, hs.cfgLegal, hs.seqLegal, hp, hs.responsesShaped⟩

theorem setHostIn (hs : s.Inv) (ws : List Word) : (s.setHostIn ws).Inv :=
  ⟨hs.fbWf, hs.lutLawful, hs.cfgLegal, hs.seqLegal, hs.panelShaped, hs.responsesShaped⟩

theorem setTurns (hs : s.Inv) (ts : List WriterTurn) : (s.setTurns ts).Inv :=
  ⟨hs.fbWf, hs.lutLawful, hs.cfgLegal, hs.seqLegal, hs.panelShaped, hs.responsesShaped⟩

theorem setWiping (hs : s.Inv) (cs : List FbAddr) : (s.setWiping cs).Inv :=
  ⟨hs.fbWf, hs.lutLawful, hs.cfgLegal, hs.seqLegal, hs.panelShaped, hs.responsesShaped⟩

theorem consumeAnswer (hs : s.Inv) : s.consumeAnswer.Inv :=
  ⟨hs.fbWf, hs.lutLawful, hs.cfgLegal, hs.seqLegal, hs.panelShaped, hs.responsesShaped⟩

theorem record (hs : s.Inv) (e : Event) : (s.record e).Inv :=
  ⟨hs.fbWf, hs.lutLawful, hs.cfgLegal, hs.seqLegal, hs.panelShaped, hs.responsesShaped⟩

theorem exhibit (hs : s.Inv) (f : Frame) : (s.exhibit f).Inv :=
  ⟨hs.fbWf, hs.lutLawful, hs.cfgLegal, hs.seqLegal, hs.panelShaped, hs.responsesShaped⟩

theorem respond (hs : s.Inv) {r : Response} (hr : r.shaped = true) : (s.respond r).Inv :=
  ⟨hs.fbWf, hs.lutLawful, hs.cfgLegal, hs.seqLegal, hs.panelShaped,
    List.forall_mem_append.2 ⟨hs.responsesShaped, List.forall_mem_singleton.2 hr⟩⟩

theorem writePixel (hs : s.Inv) (x y : Int) (color : Rgb565) : (s.writePixel x y color).Inv := by
  cases hcell : mapCoord x y with
  | some a => rw [State.writePixel_some s color hcell]; exact hs.setFb (Mem.writeCell_wf hs.fbWf a _)
  | none => rwa [State.writePixel_none s color hcell]

/-- A command's own effect; OUTPUT may start a pass only because the instance is constructed. -/
theorem effect (hs : s.Inv) (hconstructed : s.cfg.constructed = true) (i : Instr) : (effect i s).Inv := by
  cases i with
  | wrpix x y color => exact (hs.writePixel x y color).respond (by decide)
  | wipe => exact (hs.setFb Mem.nil_wf).respond (by decide)
  | output => exact hs.setSeq fun _ => ⟨hconstructed, (hs.cfgLegal hconstructed).1⟩
  | bbox => exact hs.respond (by decide)

theorem writerTurn (hs : s.Inv) (t : WriterTurn) : (s.writerTurn t).Inv := by
  cases t with
  | core => exact hs
  | wrpix x y color => exact hs.writePixel x y color
  | startWipe => exact hs.setWiping _
  | wipeCell k =>
    simp only [State.writerTurn]
    split
    · exact (hs.setFb (Mem.writeCell_wf hs.fbWf _ _)).setWiping _
    · exact hs

end State.Inv

/-! ### The scan engine -/

/-- A latch takes 64 pairs where there are 64. -/
theorem lastColumns_length {sr : List ColumnBits} (h : 64 ≤ sr.length) : (lastColumns sr).length = 64 := by
  simp only [lastColumns, List.length_drop]
  omega

namespace State.Inv

variable {s : State}

theorem okEffects (hs : s.Inv) (k : Call) : (okEffects k s).Inv := by
  obtain ⟨hsr, hout⟩ := hs.panelShaped
  cases k with
  | rowSet row => exact hs.setPins _
  | colorSet h cell mask => cases h <;> exact hs.setPins _
  | shift => exact (hs.setPins _).setPanel ⟨by simp; omega, hout⟩
  | latch => exact (hs.setPins _).setPanel ⟨hsr, lastColumns_length hsr⟩
  | showFor d => exact (hs.setPins _).exhibit _

theorem failedEffects (hs : s.Inv) (k : Call) (n : Nat) : (failedEffects k n s).Inv := by
  obtain ⟨hsr, hout⟩ := hs.panelShaped
  cases k with
  | rowSet row => exact hs.setPins _
  | colorSet h cell mask => cases h <;> exact hs.setPins _
  | shift => exact (hs.setPins _).setPanel ⟨by simp, hout⟩
  | latch => exact (hs.setPins _).setPanel ⟨hsr, by simp⟩
  | showFor d => exact hs.setPins _

/-- `SEQ` moves on within its limits, and the response that ends a pass is well shaped. -/
theorem advance (hs : s.Inv) (hpass : s.seq.phase ≠ .idle) : s.advance.Inv := by
  obtain ⟨hconstructed, hplane⟩ := hs.seqLegal hpass
  have hle : s.cfg.bits ≤ 8 := (hs.cfgLegal hconstructed).2
  have hnext : (s.setSeq (s.seq.succ s.cfg.bits)).Inv := hs.setSeq fun _ => ⟨hconstructed, Seq.succ_plane_lt hle hplane⟩
  rcases s.advance_cases with ⟨-, h⟩ | ⟨-, h⟩ <;> rw [h]
  · exact hnext
  · exact hnext.respond (by decide)

theorem raiseExtError (hs : s.Inv) (e : Err) : (s.raiseExtError e).Inv :=
  (hs.setSeq fun hpass => absurd rfl hpass).respond (by simp [Response.shaped, Response.extErr])

theorem scanStep (hs : s.Inv) (hpass : s.seq.phase ≠ .idle) : s.scanStep.Inv := by
  obtain ⟨k, -, ⟨-, h⟩ | ⟨e, -, h⟩⟩ := State.scanStep_cases hpass <;> rw [h]
  · refine ((hs.consumeAnswer.record _).okEffects k).advance ?_
    rwa [okEffects_frame]
  · exact ((hs.consumeAnswer.record _).failedEffects k _).raiseExtError e

end State.Inv

/-- Settles O50: each of the things that a step can do keeps the invariant. -/
theorem stepKeepsTheInvariant : Obligations.StepKeepsTheInvariant := by
  intro s t hs hstep
  have hs' : (s.setTurns s.turnsLeft).Inv := hs.setTurns _
  cases stepsTo_of_step hstep with
  | scan _ pass => exact hs'.scanStep pass
  | wait => exact hs'
  | command _ _ constructed => exact (hs'.setHostIn _).effect constructed _
  | illegal => exact (hs'.setHostIn _).respond (by decide)
  | inert => exact (hs'.setHostIn _).respond (by decide)
  | writer => exact (hs.setTurns _).writerTurn _

end Sys2Proof.Machine
end

section
/-! PROOFS. 70_reset_and_hazards.md: what construction leaves. -/

namespace Sys2Proof.Machine

/-- With legal inputs, construction leaves the built state (R126). -/
theorem construct_eq_built {bits num den : Nat} (h : constructOk bits num den = true) :
    construct bits num den = State.built bits (compensationH bits num den) := by
  rw [construct, if_pos h, Int.toNat_natCast, Int.toNat_natCast]

/-- H over the integers (41_brightness_compensator.md R83). -/
theorem compensationH_cast {num den : Nat} (h : num < den) (bits : Nat) :
    (compensationH bits num den : Int) = (2 * bits + 1) * num / (den - num) := by
  rw [compensationH, Int.natCast_ediv, Nat.cast_sub h.le]
  push_cast
  rfl

/-- Settles O47: the inputs are natural numbers, and each line of the table is a field of the built state. -/
theorem constructionLeavesTheResetTable : Obligations.ConstructionLeavesTheResetTable := by
  intro bits num den s hpos hle hnum hratio hs
  obtain ⟨b, rfl⟩ := Int.eq_ofNat_of_zero_le (by omega : 0 ≤ bits)
  obtain ⟨n, rfl⟩ := Int.eq_ofNat_of_zero_le hnum.le
  rw [construct_eq_built (constructOk_iff.2 ⟨⟨hpos, hle⟩, by omega, hnum, hratio⟩)] at hs
  subst hs
  exact ⟨Mem.readCell_nil, rfl, rfl, compensationH_cast (by omega) b, rfl, rfl, rfl, by simp, rfl, rfl⟩

/-- The inputs of this instance pass the checks, by the form of its parameters (R127). -/
theorem constructOk_config : constructOk Config.bits Config.ratioNum Config.ratioDen = true := by
  have := Config.bitsLessOne.isLt
  refine constructOk_iff.2 ⟨?_, ?_⟩ <;> simp only [Config.bits, Config.ratioDen, Config.ratioNum] <;> omega

/-- Settles O48: with inputs that pass, construction leaves the built state, which the reset state is. -/
theorem resetIsALegalConstruction : Obligations.ResetIsALegalConstruction :=
  ⟨constructOk_config, (construct_eq_built constructOk_config).symm⟩

/-- A built state of a legal depth meets the invariant. -/
theorem State.built_inv {bits : Nat} (h : 1 ≤ bits ∧ bits ≤ 8) (hold : Nat) : (State.built bits hold).Inv where
  fbWf := Mem.nil_wf
  lutLawful := gammaMeetsItsLaws
  cfgLegal _ := h
  seqLegal hpass := absurd rfl hpass
  panelShaped := by simp [State.panelShaped]
  responsesShaped := by simp

/-- Settles O49: the reset state is built with a legal depth. -/
theorem resetMeetsTheInvariant : Obligations.ResetMeetsTheInvariant := by
  obtain ⟨⟨hpos, hle⟩, -⟩ := constructOk_iff.1 constructOk_config
  exact State.built_inv ⟨by omega, by omega⟩ _

end Sys2Proof.Machine
end

section
/-! PROOFS. The host port and what every step keeps: which word runs, what a pass blocks, and the counts and fields that
no step changes. -/

namespace Sys2Proof.Machine

/-- Settles O19: OUTPUT's own effect is the start position. -/
theorem outputStartsThePass : Obligations.OutputStartsThePass :=
  fun _ hidle hconstructed => exec_of_free hidle hconstructed .output

/-- Settles O20: the host port is busy, and the step is a step of the scan engine or a turn of the second writer. -/
theorem passBlocksTheHostPort : Obligations.PassBlocksTheHostPort := by
  intro s hpass
  refine ⟨fun i => (exec_eq i s).trans (State.onHostPort_busy hpass _), fun t hstep => ?_⟩
  cases stepsTo_of_step hstep with
  | scan => obtain ⟨-, -, -, -, hhost, -, -⟩ := (s.setTurns s.turnsLeft).scanStep_frame; exact hhost
  | wait => rfl
  | command _ idle => exact absurd idle hpass
  | illegal _ idle => exact absurd idle hpass
  | inert _ idle => exact absurd idle hpass
  | @writer _ turn turns =>
    obtain ⟨m, cs, h⟩ := (s.setTurns turns).writerTurn_frame turn
    rw [h]
    rfl

/-- On CORE's turn, the step of a free port runs the command that the next word decodes to. -/
theorem step_decoded {s : State} {w : Word} {rest : List Word} {i : Instr} (hturn : s.coresTurn)
    (hidle : s.seq.phase = .idle) (hhost : s.hostIn = w :: rest) (hdecode : decode w = .ok i) :
    step s = exec i ((s.setTurns s.turnsLeft).setHostIn rest) := by
  rw [step_coresTurn hturn]
  simp [coreStep, hidle, hhost, runWord, hdecode]

/-- Where every step is CORE's, no turn is used up. -/
theorem State.coreMoves.setTurns_turnsLeft {s : State} (h : s.coreMoves) : s.setTurns s.turnsLeft = s := by
  rcases h with h | h
  · rw [State.turnsLeft_of_no_writer h]; rfl
  · rw [State.turnsLeft_of_empty h, ← h]; rfl

/-- Settles O22: both clauses are CORE's turn; only the second has a turn to use up. -/
theorem stepRunsTheDecodedInstr : Obligations.StepRunsTheDecodedInstr := by
  intro s w rest i hidle hhost hdecode
  refine ⟨fun hcore => ?_, fun ts hmay hturns => ?_⟩
  · rw [step_decoded hcore.coresTurn hidle hhost hdecode, hcore.setTurns_turnsLeft]
    rfl
  · rw [step_decoded (.inr (.inr ⟨ts, hturns⟩)) hidle hhost hdecode, State.turnsLeft_of_core hmay hturns]
    rfl

/-- The turn that is placed with a word is CORE's. -/
theorem State.withFetchWord_coresTurn (s : State) (nbits w : Nat) : (s.withFetchWord nbits w).coresTurn := by
  cases hwriter : s.concurrentWrites
  · exact .inl (by simp [State.writerMayMove, State.withFetchWord, hwriter])
  · exact .inr (.inr ⟨s.turns, by simp [State.withFetchWord, hwriter]⟩)

/-- Using that turn up leaves the schedule as it was. -/
theorem State.withFetchWord_turnsLeft (s : State) (nbits w : Nat) : (s.withFetchWord nbits w).turnsLeft = s.turns := by
  cases hwriter : s.concurrentWrites <;> simp [State.turnsLeft, State.writerMayMove, State.withFetchWord, hwriter]

/-- A word of 64 bits is placed whole. -/
theorem State.withFetchWord_hostIn (s : State) (w : Word) : (s.withFetchWord 64 w.toNat).hostIn = w :: s.hostIn := by
  rw [State.withFetchWord, Nat.mod_eq_of_lt w.isLt, BitVec.ofNat_toNat, BitVec.setWidth_eq]

/-- Settles O23: the placed word is the next one on the stream, on CORE's turn, at a free port. -/
theorem placedWordRunsNext : Obligations.PlacedWordRunsNext := by
  intro s w i hdecode
  rw [step_decoded (s.withFetchWord_coresTurn 64 w.toNat) rfl (s.withFetchWord_hostIn w) hdecode,
    s.withFetchWord_turnsLeft]
  rfl

/-- Settles O24: with no pass and no word, all that is left of the step is the turn. -/
theorem idleCoreWaits : Obligations.IdleCoreWaits := by
  intro s hturn hidle hhost
  rw [step_coresTurn hturn]
  simp [coreStep, hidle, hhost, State.setTurns]

/-! ### What every step keeps -/

/-- A command's own effect reaches the framebuffer, the sequencer and the responses, nothing else. -/
theorem effect_frame (i : Instr) (s : State) :
    effect i s = { s with fb := (effect i s).fb, seq := (effect i s).seq, responses := (effect i s).responses } := by
  cases i with
  | wrpix x y color => obtain ⟨m, hm⟩ := s.writePixel_frame x y color; simp only [effect, hm]; rfl
  | _ => rfl

/-- Settles O51: none of the things that a step can do reaches the table, the configuration or the parameter. -/
theorem configurationNeverChanges : Obligations.ConfigurationNeverChanges := by
  intro s t hstep
  cases stepsTo_of_step hstep with
  | scan =>
    obtain ⟨-, hlut, hcfg, hwriter, -, -, -⟩ := (s.setTurns s.turnsLeft).scanStep_frame
    exact ⟨hlut, hcfg, hwriter⟩
  | wait => exact ⟨rfl, rfl, rfl⟩
  | command => rw [effect_frame]; exact ⟨rfl, rfl, rfl⟩
  | illegal => exact ⟨rfl, rfl, rfl⟩
  | inert => exact ⟨rfl, rfl, rfl⟩
  | @writer _ turn turns =>
    obtain ⟨m, cs, h⟩ := (s.setTurns turns).writerTurn_frame turn
    rw [h]
    exact ⟨rfl, rfl, rfl⟩

/-! ### Words, passes and responses are counted together (30_encoding.md R65) -/

theorem State.commandCount_respond (s : State) (r : Response) : (s.respond r).commandCount = s.commandCount + 1 := by
  simp only [State.commandCount, State.respond, List.length_append]
  rfl

/-- A command's own effect on a free instance answers it, or starts the pass whose end will. -/
theorem commandCount_effect {s : State} (hidle : s.seq.phase = .idle) (i : Instr) :
    (effect i s).commandCount = s.commandCount + 1 := by
  cases i with
  | wrpix x y color =>
    obtain ⟨m, hm⟩ := s.writePixel_frame x y color
    rw [effect, hm, State.commandCount_respond]
    rfl
  | wipe => exact State.commandCount_respond _ _
  | output => simp [effect, State.commandCount, hidle]; omega
  | bbox => exact State.commandCount_respond _ _

/-- Moving on keeps the count: where the pass ends, the response takes its place. -/
theorem commandCount_advance {s : State} (hpass : s.seq.phase ≠ .idle) : s.advance.commandCount = s.commandCount := by
  rcases s.advance_cases with ⟨hmore, h⟩ | ⟨hend, h⟩ <;> rw [h]
  · simp [State.commandCount, hpass, hmore]
  · rw [State.commandCount_respond]
    simp [State.commandCount, hpass, hend]
    omega

/-- Raising an error keeps the count: the response takes the place of the pass. -/
theorem commandCount_raiseExtError {s : State} (hpass : s.seq.phase ≠ .idle) (e : Err) :
    (s.raiseExtError e).commandCount = s.commandCount := by
  rw [State.raiseExtError, State.commandCount_respond]
  simp [State.commandCount, hpass]
  omega

theorem commandCount_scanStep {s : State} (hpass : s.seq.phase ≠ .idle) : s.scanStep.commandCount = s.commandCount := by
  obtain ⟨k, -, ⟨-, h⟩ | ⟨e, -, h⟩⟩ := State.scanStep_cases hpass <;> rw [h]
  · rw [okEffects_frame]
    exact commandCount_advance hpass
  · rw [failedEffects_frame]
    exact commandCount_raiseExtError hpass e

/-- Taking a word off the stream lowers the count by one, which its answer makes up for. -/
theorem commandCount_take {s : State} {w : Word} {ws : List Word} (hhost : s.hostIn = w :: ws) (ts : List WriterTurn) :
    ((s.setTurns ts).setHostIn ws).commandCount + 1 = s.commandCount := by
  change ws.length + (if s.seq.phase = .idle then 0 else 1) + s.responses.length + 1 = s.commandCount
  rw [State.commandCount, hhost, List.length_cons]
  omega

/-- Settles O26: each of the things that a step can do keeps the count. -/
theorem everyCommandIsAnsweredOnce : Obligations.EveryCommandIsAnsweredOnce := by
  intro s t hstep
  cases stepsTo_of_step hstep with
  | scan _ pass => exact commandCount_scanStep (s := s.setTurns s.turnsLeft) pass
  | wait => rfl
  | @command _ idle _ _ ws i host =>
    exact (commandCount_effect (s := (s.setTurns s.turnsLeft).setHostIn ws) idle i).trans (commandCount_take host _)
  | illegal _ _ _ host => exact (State.commandCount_respond _ _).trans (commandCount_take host _)
  | inert _ _ _ host => exact (State.commandCount_respond _ _).trans (commandCount_take host _)
  | @writer _ turn turns =>
    obtain ⟨m, cs, h⟩ := (s.setTurns turns).writerTurn_frame turn
    rw [h]
    rfl

/-! ### Output enable (42_scan_engine.md R110) -/

theorem okEffects_oe {s : State} (hoe : s.pins.oe = true) (k : Call) : (okEffects k s).pins.oe = true := by
  cases k with
  | colorSet h cell mask => cases h <;> exact hoe
  | showFor d => rfl
  | _ => exact hoe

theorem failedEffects_oe {s : State} (hoe : s.pins.oe = true) {k : Call} (hk : ∀ d, k ≠ .showFor d) (n : Nat) :
    (failedEffects k n s).pins.oe = true := by
  cases k with
  | colorSet h cell mask => cases h <;> exact hoe
  | showFor d => exact absurd rfl (hk d)
  | _ => exact hoe

/-- Moving on leaves the lines. -/
@[simp] theorem State.advance_pins (s : State) : s.advance.pins = s.pins := by
  rcases s.advance_cases with ⟨-, h⟩ | ⟨-, h⟩ <;> rw [h] <;> rfl

/-- Only the phase of a Show names a Show. -/
theorem State.phase_of_nextCall_showFor {s : State} {d : Nat} (h : s.nextCall = some (.showFor d)) :
    s.seq.phase = .showing := by
  unfold State.nextCall at h
  split at h <;> simp_all

theorem scanStep_oe {s : State} (hpass : s.seq.phase ≠ .idle) (hoe : s.pins.oe = true) :
    s.scanStep.pins.oe = true ∨ (s.seq.phase = .showing ∧ ∃ e, s.nextAnswer = .err e) := by
  obtain ⟨k, hcall, ⟨-, h⟩ | ⟨e, herr, h⟩⟩ := State.scanStep_cases hpass
  · rw [h, State.advance_pins]
    exact .inl (okEffects_oe (s := s.consumeAnswer.record ⟨k, .ok⟩) hoe k)
  · by_cases hshow : ∃ d, k = .showFor d
    · obtain ⟨d, rfl⟩ := hshow
      exact .inr ⟨State.phase_of_nextCall_showFor hcall, e, herr⟩
    · rw [h]
      exact .inl (failedEffects_oe (s := s.consumeAnswer.record ⟨k, .err e⟩) hoe (not_exists.1 hshow) _)

/-- Settles O36: only a panel-port call reaches the lines, and only a failed Show leaves OE at a free value. -/
theorem outputEnableStaysHigh : Obligations.OutputEnableStaysHigh := by
  intro s t hoe hstep
  cases stepsTo_of_step hstep with
  | scan _ pass => exact scanStep_oe (s := s.setTurns s.turnsLeft) pass hoe
  | wait => exact .inl hoe
  | command => rw [effect_frame]; exact .inl hoe
  | illegal => exact .inl hoe
  | inert => exact .inl hoe
  | @writer _ turn turns =>
    obtain ⟨m, cs, h⟩ := (s.setTurns turns).writerTurn_frame turn
    rw [h]
    exact .inl hoe

end Sys2Proof.Machine
end

section
/-! PROOFS. 42_scan_engine.md: one step of the scan engine, for each call and answer. -/

namespace Sys2Proof.Machine

/-- Settles O27: each line is a branch of the table, with the position that it names. -/
theorem successorTable : Obligations.SuccessorTable := by
  intro bits row plane col hpos hle hplane
  refine ⟨rfl, rfl, rfl, fun col' hcol => ?_, fun hcol => ?_, rfl, fun plane' hnext hinner => ?_,
    fun row' hrow hlast => ?_, fun hlast hrow => ?_⟩
  · have hlt : col.val < 63 := by have := col'.isLt; omega
    obtain rfl : col' = Fin.ofNat 64 (col.val + 1) := Fin.ext (by simp; omega)
    exact if_pos hlt
  · exact if_neg (by simp [hcol])
  · have hlt : plane.val + 1 < bits := by omega
    obtain rfl : plane' = Fin.ofNat 8 (plane.val + 1) := Fin.ext (by simp; omega)
    exact if_pos hlt
  · have hlt : row.val < 15 := by have := row'.isLt; omega
    have hdone : ¬ plane.val + 1 < bits := by omega
    obtain rfl : row' = Fin.ofNat 16 (row.val + 1) := Fin.ext (by simp; omega)
    exact (if_neg hdone).trans (if_pos hlt)
  · have hdone : ¬ plane.val + 1 < bits := by omega
    exact (if_neg hdone).trans (if_neg (by simp [hrow]))

/-! ### The sequencer and the responses after an `ok` -/

/-- Moving on as one record: `SEQ` follows the table, and the response is there exactly where the pass ends (R104). -/
theorem State.advance_eq (s : State) :
    s.advance = { s with
      seq := s.seq.succ s.cfg.bits
      responses := s.responses ++ if (s.seq.succ s.cfg.bits).phase = .idle then [Response.done] else [] } := by
  rcases s.advance_cases with ⟨hmore, h⟩ | ⟨hend, h⟩ <;> rw [h]
  · simp [hmore, State.setSeq]
  · simp [hend, State.setSeq, State.respond]

/-- What an `ok` leaves of everything but the lines, the panel and the display: `SEQ` follows the table, the answer is
used up and the call is recorded. -/
theorem scanStep_of_ok {s : State} {k : Call} {as : List Resp} (hcall : s.nextCall = some k)
    (hans : s.answers = .ok :: as) :
    s.scanStep = { okEffects k s with
      seq := s.seq.succ s.cfg.bits, answers := as, draws := s.draws + 1, trace := s.trace ++ [⟨k, .ok⟩]
      responses := s.responses ++ if (s.seq.succ s.cfg.bits).phase = .idle then [Response.done] else [] } := by
  rw [State.scanStep_eq hcall, State.issue_ok k (State.nextAnswer_cons hans), State.advance_eq]
  cases k with
  | colorSet h cell mask => cases h <;> simp [okEffects, State.consumeAnswer, State.record, hans, State.setPins]
  | _ => simp [okEffects, State.consumeAnswer, State.record, hans, State.setPins, State.setPanel, State.exhibit]

/-- On CORE's turn the same, with the turn used up. -/
theorem step_of_ok {s : State} {k : Call} {as : List Resp} (hturn : s.coresTurn) (hcall : s.nextCall = some k)
    (hans : s.answers = .ok :: as) :
    step s = .next { okEffects k s with
      seq := s.seq.succ s.cfg.bits, answers := as, turns := s.turnsLeft, draws := s.draws + 1
      trace := s.trace ++ [⟨k, .ok⟩]
      responses := s.responses ++ if (s.seq.succ s.cfg.bits).phase = .idle then [Response.done] else [] } := by
  have hpass : s.seq.phase ≠ .idle := fun hidle => by simp [State.nextCall, hidle] at hcall
  rw [step_scan_coresTurn hturn hpass, scanStep_of_ok (s := s.setTurns s.turnsLeft) hcall hans]
  cases k with
  | colorSet h cell mask => cases h <;> rfl
  | _ => rfl

/-- Only a Show can end a pass, and it does so exactly at the last plane of row 15 (R103). -/
theorem Seq.succ_idle_iff {bits : Nat} {q : Seq} (hpass : q.phase ≠ .idle) :
    (q.succ bits).phase = .idle ↔ q.phase = .showing ∧ bits ≤ q.plane.val + 1 ∧ q.row.val = 15 := by
  rcases q with ⟨phase, row, plane, col⟩
  have := row.isLt
  cases phase with
  | idle => exact absurd rfl hpass
  | shift => by_cases hcol : col.val < 63 <;> simp [Seq.succ, hcol]
  | showing =>
    by_cases hnext : plane.val + 1 < bits
    · simp [Seq.succ, hnext]
    · by_cases hrow : row.val < 15
      · simp [Seq.succ, hnext, hrow]; omega
      · simp [Seq.succ, hnext, hrow]; omega
  | _ => simp [Seq.succ]

/-! ### One call -/

/-- A step of the scan engine records its call with the answer that comes in, and uses up one answer. -/
theorem scanStep_records {s : State} {k : Call} (hcall : s.nextCall = some k) :
    s.scanStep.trace = s.trace ++ [⟨k, s.nextAnswer⟩] ∧ s.scanStep.answers = s.answers.tail ∧
      s.scanStep.draws = s.draws + 1 := by
  rw [State.scanStep_eq hcall]
  cases hans : s.nextAnswer with
  | ok => rw [State.issue_ok k hans, State.advance_eq, okEffects_frame]; exact ⟨rfl, rfl, rfl⟩
  | err e => rw [State.issue_err k hans, failedEffects_frame]; exact ⟨rfl, rfl, rfl⟩

/-- Settles O28: one call is recorded, and the frame of the scan engine's step. -/
theorem scanStepIssuesOneCall : Obligations.ScanStepIssuesOneCall := by
  intro s hturn hpass
  obtain ⟨k, hcall⟩ := State.nextCall_isSome hpass
  obtain ⟨htrace, hanswers, hdraws⟩ := scanStep_records (s := s.setTurns s.turnsLeft) hcall
  obtain ⟨hfb, hlut, hcfg, hwriter, hhost, hturns, hwiping⟩ := (s.setTurns s.turnsLeft).scanStep_frame
  exact ⟨k, _, hcall, step_scan_coresTurn hturn hpass, htrace, hanswers, hdraws, hfb, hlut, hcfg, hwriter, hhost,
    hturns, hwiping⟩

/-- Settles O29: the row address is the number that the lines carry. -/
theorem rowSetDrivesTheRowLines : Obligations.RowSetDrivesTheRowLines := by
  intro s rest hturn hphase hans
  have hcall : s.nextCall = some (.rowSet s.seq.row) := by simp [State.nextCall, hphase]
  have hnext : s.seq.succ s.cfg.bits = ⟨.colorU, s.seq.row, 0, 0⟩ := by simp [Seq.succ, hphase]
  refine ⟨_, step_of_ok hturn hcall hans, hnext, fun i hi => ?_, rfl, ?_⟩
  · simp [okEffects, hi]
  · simp [okEffects, hnext, State.setPins]

/-- Settles O30: the plane lies below BITS, so the bit that it shows is one of the eight. -/
theorem colorSetPresentsThePlaneBit : Obligations.ColorSetPresentsThePlaneBit := by
  intro s rest h hturn hcfg hseq hphase hans
  have hpass : s.seq.phase ≠ .idle := by rw [hphase]; cases h <;> simp
  obtain ⟨hconstructed, hplane⟩ := hseq hpass
  obtain ⟨-, hle⟩ := hcfg hconstructed
  have hcall : s.nextCall = some (.colorSet h (s.fb.readCell ⟨h, s.seq.row, s.seq.col⟩) s.seq.plane) := by
    cases h <;> simp [State.nextCall, hphase]
  have hpos : bitPos s.cfg.bits s.seq.plane + s.cfg.bits = s.seq.plane.val + 8 := by
    simp only [bitPos, channelBits]; omega
  refine ⟨_, _, bitPos s.cfg.bits s.seq.plane, rfl, hpos, by omega, step_of_ok hturn hcall hans, ?_⟩
  cases h with
  | upper =>
    have hnext : s.seq.succ s.cfg.bits = { s.seq with phase := .colorL } := by simp [Seq.succ, hphase]
    simp [okEffects, hnext, State.setPins, planeLines]
  | lower =>
    have hnext : s.seq.succ s.cfg.bits = { s.seq with phase := .shift } := by simp [Seq.succ, hphase]
    simp [okEffects, hnext, State.setPins, planeLines]

/-- Settles O31: a shift appends one pair, and the pass goes on. -/
theorem shiftClocksInOneColumn : Obligations.ShiftClocksInOneColumn := by
  intro s rest hturn hphase hans
  have hcall : s.nextCall = some .shift := by simp [State.nextCall, hphase]
  have hmore : (s.seq.succ s.cfg.bits).phase ≠ .idle := by
    simp [Seq.succ_idle_iff, hphase]
  refine ⟨_, step_of_ok hturn hcall hans, rfl, rfl, rfl, rfl, hmore, ?_⟩
  simp [okEffects, hmore, State.setPins, State.setPanel]

/-- Settles O32: with at least 64 pairs in the shift register, the last 64 are the buffer. -/
theorem latchTransfersTheLastColumns : Obligations.LatchTransfersTheLastColumns := by
  rintro s rest hturn ⟨hsr, -⟩ hphase hans
  have hcall : s.nextCall = some .latch := by simp [State.nextCall, hphase]
  have hnext : s.seq.succ s.cfg.bits = { s.seq with phase := .showing } := by simp [Seq.succ, hphase]
  refine ⟨_, step_of_ok hturn hcall hans, lastColumns_length hsr, fun k _ => List.getElem?_drop, rfl, rfl, hnext, ?_⟩
  simp [okEffects, hnext, State.setPins, State.setPanel]

/-- Settles O33: the Show's frame, and the response where the table says that the pass ends. -/
theorem showHoldsThePlane : Obligations.ShowHoldsThePlane := by
  rintro s rest d hturn - hseq hphase hans rfl
  have hpass : s.seq.phase ≠ .idle := by simp [hphase]
  obtain ⟨-, hplane⟩ := hseq hpass
  have hcall : s.nextCall = some (.showFor (duration s.cfg.bits s.cfg.h s.seq.plane)) := by
    simp [State.nextCall, hphase]
  have hend : (s.seq.succ s.cfg.bits).phase = .idle ↔ s.seq.plane.val = s.cfg.bits - 1 ∧ s.seq.row.val = 15 := by
    simp [Seq.succ_idle_iff hpass, hphase]; omega
  exact ⟨_, step_of_ok hturn hcall hans, rfl, rfl, rfl, by simp only [hend]; rfl, rfl⟩

/-- What a failed call leaves on the lines and in the panel. -/
theorem scanStep_lines_of_err {s : State} {k : Call} {e : Err} {as : List Resp} (hcall : s.nextCall = some k)
    (hans : s.answers = .err e :: as) :
    s.scanStep.pins = (failedEffects k s.draws s).pins ∧ s.scanStep.panel = (failedEffects k s.draws s).panel := by
  rw [State.scanStep_eq hcall, State.issue_err k (State.nextAnswer_cons hans)]
  cases k with
  | colorSet h cell mask => cases h <;> exact ⟨rfl, rfl⟩
  | _ => exact ⟨rfl, rfl⟩

/-- Settles O35: a failed call's effects, phase by phase. -/
theorem failedCallKeepsOtherFields : Obligations.FailedCallKeepsOtherFields := by
  intro s e rest hturn hpass hans
  refine ⟨_, step_scan_coresTurn hturn hpass, ?_⟩
  obtain ⟨k, hcall⟩ := State.nextCall_isSome hpass
  obtain ⟨hpins, hpanel⟩ := scanStep_lines_of_err (s := s.setTurns s.turnsLeft) hcall hans
  rw [hpins, hpanel]
  cases hphase : s.seq.phase with
  | idle => trivial
  | _ =>
    rw [State.nextCall, hphase] at hcall
    cases hcall
    exact ⟨rfl, rfl⟩

end Sys2Proof.Machine
end

section
/-! PROOFS. 20_memory.md and 40_quantizer_framebuffer.md: coordinates, cells, and the commands that write them. -/

namespace Sys2Proof.Machine

/-! ### The coordinate map (R40, R41) -/

/-- Rows 0 to 15 of the box. -/
theorem mapCoord_upper {x y : Int} (hx : 0 ≤ x) (hx' : x < 64) (hy : 0 ≤ y) (hy' : y < 16) :
    mapCoord x y = some ⟨.upper, Fin.ofNat 16 y.toNat, Fin.ofNat 64 x.toNat⟩ := by
  rw [mapCoord, if_pos (inside_iff.2 ⟨hx, hx', hy, by omega⟩), if_pos hy']

/-- Rows 16 to 31 of the box. -/
theorem mapCoord_lower {x y : Int} (hx : 0 ≤ x) (hx' : x < 64) (hy : 16 ≤ y) (hy' : y < 32) :
    mapCoord x y = some ⟨.lower, Fin.ofNat 16 (y - 16).toNat, Fin.ofNat 64 x.toNat⟩ := by
  rw [mapCoord, if_pos (inside_iff.2 ⟨hx, hx', by omega, hy'⟩), if_neg (by omega)]

/-- The logical row of a cell: the lower half's rows follow the upper half's (R41). -/
def FbAddr.logicalRow (a : FbAddr) : Nat := 16 * a.half.index + a.row.val

/-- A coordinate maps to a cell exactly where it is the cell's column and logical row. -/
theorem mapCoord_eq_some_iff {x y : Int} {a : FbAddr} :
    mapCoord x y = some a ↔ x = a.col.val ∧ y = a.logicalRow := by
  obtain ⟨h, row, col⟩ := a
  have := row.isLt; have := col.isLt
  constructor
  · intro hmap
    have hbox : 0 ≤ x ∧ x < 64 ∧ 0 ≤ y ∧ y < 32 := by
      by_contra hout
      simp [mapCoord_eq_none_of_outside hout] at hmap
    obtain ⟨hx, hx', hy, hy'⟩ := hbox
    by_cases hrow : y < 16
    · rw [mapCoord_upper hx hx' hy hrow] at hmap
      cases hmap
      simp [FbAddr.logicalRow, Half.index]
      omega
    · rw [mapCoord_lower hx hx' (by omega) hy'] at hmap
      cases hmap
      simp [FbAddr.logicalRow, Half.index]
      omega
  · rintro ⟨rfl, rfl⟩
    cases h with
    | upper =>
      rw [mapCoord_upper (by omega) (by omega) (by omega) (by simp [FbAddr.logicalRow, Half.index])]
      simp [FbAddr.logicalRow, Half.index]
    | lower =>
      rw [mapCoord_lower (by omega) (by omega) (by simp [FbAddr.logicalRow, Half.index])
        (by simp [FbAddr.logicalRow, Half.index]; omega)]
      simp [FbAddr.logicalRow, Half.index]

/-- Settles O8: the two halves of the box, the outside, and each cell's own column and logical row. -/
theorem coordinateMapIsBijective : Obligations.CoordinateMapIsBijective := by
  refine ⟨fun x y hx hx' hy hy' => ⟨_, mapCoord_upper hx hx' hy hy', rfl, ?_⟩,
    fun x y hx hx' hy hy' => ⟨_, mapCoord_lower hx hx' hy hy', rfl, ?_⟩,
    fun x y => mapCoord_eq_none_of_outside, fun a => ⟨(a.col.val, a.logicalRow), ?_, fun p hp => ?_⟩⟩
  · simp; omega
  · simp; omega
  · exact mapCoord_eq_some_iff.2 ⟨rfl, rfl⟩
  · obtain ⟨hx, hy⟩ := mapCoord_eq_some_iff.1 hp
    exact Prod.ext hx hy

/-! ### Cell writes (R46) -/

@[simp] theorem Mem.readCell_writeCell_self (m : Mem) (a : FbAddr) (c : Color) : (m.writeCell a c).readCell a = c := by
  rw [Mem.readCell_writeCell, if_pos rfl]

theorem Mem.readCell_writeCell_of_ne (m : Mem) {a b : FbAddr} (h : b ≠ a) (c : Color) :
    (m.writeCell a c).readCell b = m.readCell b := by
  rw [Mem.readCell_writeCell, if_neg h]

/-- Settles O9: a canonical framebuffer is determined by its cells, and a cell write changes one of them. -/
theorem cellWritesReplaceOneCell : Obligations.CellWritesReplaceOneCell := by
  intro m a c d hm
  refine ⟨Mem.writeCell_wf hm a c, m.readCell_writeCell_self a c, fun b hb => m.readCell_writeCell_of_ne hb c, ?_, ?_⟩
  · refine Mem.ext_of_cells (Mem.writeCell_wf (Mem.writeCell_wf hm a c) a d) (Mem.writeCell_wf hm a d) fun b => ?_
    by_cases hb : b = a <;> simp [Mem.readCell_writeCell, hb]
  · refine Mem.ext_of_cells (Mem.writeCell_wf hm a _) hm fun b => ?_
    by_cases hb : b = a <;> simp [Mem.readCell_writeCell, hb]

/-- Settles O13: WRPIX's own effect is the write of its cell and the response. -/
theorem wrpixWritesItsCell : Obligations.WrpixWritesItsCell := by
  intro s x y color hidle hconstructed hx hx' hy hy'
  obtain ⟨a, hcell⟩ : ∃ a, mapCoord x y = some a :=
    Option.ne_none_iff_exists'.1 (by simp [mapCoord, inside_iff.2 ⟨hx, hx', hy, hy'⟩, ite_eq_iff])
  have hfb : (effect (.wrpix x y color) s).fb = s.fb.writeCell a (quantize s.lut color) := by
    rw [effect, State.writePixel_some s color hcell]; rfl
  refine ⟨a, _, hcell, exec_of_free hidle hconstructed _, ?_, fun b hb => ?_, fun k hk => ?_, ?_⟩
  · rw [hfb, Mem.readCell_writeCell_self]; rfl
  · rw [hfb, Mem.readCell_writeCell_of_ne _ hb]
  · rw [hfb, Mem.read_writeCell, if_neg (by omega), if_neg (by omega), if_neg (by omega)]
  · rw [effect, State.writePixel_some s color hcell]; rfl

/-! ### WIPE as cell writes (40_quantizer_framebuffer.md R80) -/

/-- Black written to a list of cells is what those cells read, and no other cell changes. -/
theorem readCell_foldl_black (cells : List FbAddr) (m : Mem) (a : FbAddr) :
    (cells.foldl (fun m a => m.writeCell a Color.black) m).readCell a =
      if a ∈ cells then Color.black else m.readCell a := by
  induction cells generalizing m with
  | nil => simp
  | cons b cells ih =>
    rw [List.foldl_cons, ih, Mem.readCell_writeCell]
    by_cases ha : a ∈ cells <;> by_cases hb : a = b <;> simp [ha, hb]

theorem foldl_black_wf {m : Mem} (hm : m.wf) (cells : List FbAddr) :
    Mem.wf (cells.foldl (fun m a => m.writeCell a Color.black) m) := by
  induction cells generalizing m with
  | nil => exact hm
  | cons b cells ih => exact ih (Mem.writeCell_wf hm b _)

/-- Settles O17: the written framebuffer is canonical and black at every cell, so it is the empty listing. -/
theorem wipeIsEveryCellWrite : Obligations.WipeIsEveryCellWrite := by
  intro s cells hidle hconstructed hfb hall
  have hempty : cells.foldl (fun m a => m.writeCell a Color.black) s.fb = [] :=
    Mem.ext_of_cells (foldl_black_wf hfb cells) Mem.nil_wf fun a => by
      rw [readCell_foldl_black, if_pos (hall a), Mem.readCell_nil]
  rw [exec_of_free hidle hconstructed, hempty]
  rfl

/-! ### The words of a DRAW (40_quantizer_framebuffer.md R79) -/

/-- The framebuffer after the write of one pair of a DRAW. -/
def drawPair (lut : Lut) (m : Mem) (p : Int × Int × Rgb565) : Mem :=
  match mapCoord p.1 p.2.1 with
  | some a => m.writeCell a (quantize lut p.2.2)
  | none => m

theorem State.writePixel_eq (s : State) (p : Int × Int × Rgb565) :
    s.writePixel p.1 p.2.1 p.2.2 = s.setFb (drawPair s.lut s.fb p) := by
  cases hcell : mapCoord p.1 p.2.1 with
  | some a => rw [State.writePixel_some s p.2.2 hcell, drawPair, hcell]
  | none => rw [State.writePixel_none s p.2.2 hcell, drawPair, hcell]; rfl

theorem readCell_drawPair (lut : Lut) (m : Mem) (p : Int × Int × Rgb565) (a : FbAddr) :
    (drawPair lut m p).readCell a = if mapCoord p.1 p.2.1 = some a then quantize lut p.2.2 else m.readCell a := by
  cases hcell : mapCoord p.1 p.2.1 with
  | some b => simp [drawPair, hcell, Mem.readCell_writeCell, eq_comm]
  | none => simp [drawPair, hcell]

/-- After pairs written in order, a cell holds the colour of the last one that maps to it. -/
theorem readCell_foldl_drawPair (lut : Lut) (m : Mem) (pts : List (Int × Int × Rgb565)) (a : FbAddr) :
    (pts.foldl (drawPair lut) m).readCell a =
      match pts.reverse.find? fun p => mapCoord p.1 p.2.1 == some a with
      | some p => quantize lut p.2.2
      | none => m.readCell a := by
  induction pts using List.reverseRecOn with
  | nil => rfl
  | append_singleton pts p ih =>
    rw [List.foldl_append, List.foldl_cons, List.foldl_nil, readCell_drawPair, List.reverse_append,
      List.reverse_singleton, List.singleton_append]
    by_cases hcell : mapCoord p.1 p.2.1 = some a
    · rw [if_pos hcell, List.find?_cons_of_pos (by simpa using hcell)]
    · rw [if_neg hcell, List.find?_cons_of_neg (by simpa using hcell), ih]

/-- A free instance takes a WRPIX's word and leaves the pixel written and the OK. -/
theorem step_wrpixWord {s : State} {p : Int × Int × Rgb565} {rest : List Word} (hcore : s.coreMoves)
    (hidle : s.seq.phase = .idle) (hconstructed : s.cfg.constructed = true)
    (hwf : (Instr.wrpix p.1 p.2.1 p.2.2).wellFormed = true)
    (hhost : s.hostIn = encode (.wrpix p.1 p.2.1 p.2.2) :: rest) :
    step s = .next (((s.setHostIn rest).setFb (drawPair s.lut s.fb p)).respond Response.done) := by
  rw [step_decoded hcore.coresTurn hidle hhost (decodeOfEncodedInstr _ hwf), hcore.setTurns_turnsLeft,
    exec_of_free (s := s.setHostIn rest) hidle hconstructed, effect, State.writePixel_eq]
  rfl

/-- The words of a DRAW run one after the other. -/
theorem run_draw {pts : List (Int × Int × Rgb565)} {rest : List Word} {s : State} (hcore : s.coreMoves)
    (hidle : s.seq.phase = .idle) (hconstructed : s.cfg.constructed = true)
    (hwf : ∀ p ∈ pts, (Instr.wrpix p.1 p.2.1 p.2.2).wellFormed = true)
    (hhost : s.hostIn = (pts.map fun p => encode (.wrpix p.1 p.2.1 p.2.2)) ++ rest) :
    core.run pts.length s = .next { s with
      fb := pts.foldl (drawPair s.lut) s.fb
      hostIn := rest
      responses := s.responses ++ List.replicate pts.length ⟨.ok, 0, none⟩ } := by
  induction pts generalizing s with
  | nil => subst hhost; simp; rfl
  | cons p pts ih =>
    obtain ⟨hp, hpts⟩ := List.forall_mem_cons.1 hwf
    have hstep := step_wrpixWord hcore hidle hconstructed hp hhost
    refine (run_succ _ s _ hstep).trans ((ih ?core ?idle ?constructed hpts ?host).trans ?done)
    case core => exact hcore
    case idle => exact hidle
    case constructed => exact hconstructed
    case host => rfl
    case done => simp [State.setHostIn, State.setFb, State.respond, List.replicate_succ, Response.done, Response.okData]

/-- Settles O15: the words run one after the other, and the last pair of each cell stays. -/
theorem drawKeepsTheLastPair : Obligations.DrawKeepsTheLastPair := by
  intro s pts rest hcore hidle hconstructed hwf hhost
  exact ⟨_, run_draw hcore hidle hconstructed hwf hhost, readCell_foldl_drawPair s.lut s.fb pts, rfl⟩

end Sys2Proof.Machine
end

section
/-! PROOFS. Who changes the framebuffer and what returns a response: the second writer's turns (20_memory.md R52), and
the causes of each status (30_encoding.md R66). -/

namespace Sys2Proof.Machine

/-- The turn of a second writer that may move is its own step. -/
theorem step_writer {s : State} {turn : WriterTurn} {ts : List WriterTurn} (hmay : s.writerMayMove = true)
    (hturns : s.turns = turn :: ts) (hturn : turn ≠ .core) : step s = .next ((s.setTurns ts).writerTurn turn) := by
  cases turn with
  | core => exact absurd rfl hturn
  | _ => simp [step, machineStep, hmay, hturns]

theorem length_allCells : allCells.length = 2048 := by
  simp [allCells, List.length_flatMap]

/-- A pending cell is written black, and is pending no more. -/
theorem State.writerTurn_wipeCell {s : State} {k : Nat} {a : FbAddr} (h : s.wiping[k]? = some a) :
    s.writerTurn (.wipeCell k) = (s.setFb (s.fb.writeCell a Color.black)).setWiping (s.wiping.eraseIdx k) := by
  simp [State.writerTurn, h]

/-- A number with no pending cell does nothing. -/
theorem State.writerTurn_wipeCell_none {s : State} {k : Nat} (h : s.wiping[k]? = none) :
    s.writerTurn (.wipeCell k) = s := by
  simp [State.writerTurn, h]

/-- Settles O53: each turn of the second writer is its own step, and on CORE's turn CORE steps. -/
theorem secondWriterWritesOneCell : Obligations.SecondWriterWritesOneCell := by
  intro s ts hwriter hconstructed
  have hmay : s.writerMayMove = true := by simp [State.writerMayMove, hwriter, hconstructed]
  refine ⟨fun x y color a hturns hcell => ?pixel, fun k a hturns hk => ?pending, fun hturns => ?start,
    fun k hturns hk => ?nothingPending, fun x y color hturns hcell => ?outside, fun hturns => ?core⟩
  case pixel =>
    refine ⟨_, step_writer hmay hturns (by simp), ?_⟩
    rw [State.writerTurn, State.writePixel_some _ color hcell]
    exact ⟨Mem.readCell_writeCell_self _ a _, fun b hb => Mem.readCell_writeCell_of_ne _ hb _, rfl⟩
  case pending =>
    refine ⟨_, step_writer hmay hturns (by simp), ?_⟩
    rw [State.writerTurn_wipeCell (s := s.setTurns ts) hk]
    exact ⟨s.fb.readCell_writeCell_self a Color.black, fun b hb => s.fb.readCell_writeCell_of_ne hb Color.black, rfl⟩
  case start => exact ⟨allCells, mem_allCells, length_allCells, step_writer hmay hturns (by simp)⟩
  case nothingPending =>
    rw [step_writer hmay hturns (by simp), State.writerTurn_wipeCell_none (s := s.setTurns ts) hk]; rfl
  case outside => rw [step_writer hmay hturns (by simp), State.writerTurn, State.writePixel_none _ color hcell]; rfl
  case core =>
    rw [step_coresTurn (.inr (.inr ⟨ts, hturns⟩)), State.turnsLeft_of_core hmay hturns]; rfl

/-! ### What changes the framebuffer -/

/-- A pixel write changes the framebuffer only inside the box. -/
theorem mapCoord_of_writePixel_ne {s : State} {x y : Int} {color : Rgb565}
    (h : (s.writePixel x y color).fb ≠ s.fb) : ∃ a, mapCoord x y = some a := by
  cases hcell : mapCoord x y with
  | some a => exact ⟨a, rfl⟩
  | none => rw [State.writePixel_none s color hcell] at h; exact absurd rfl h

/-- The commands whose own effect changes the framebuffer. -/
theorem instr_of_effect_fb_ne {s : State} {i : Instr} (h : (effect i s).fb ≠ s.fb) :
    i = .wipe ∨ ∃ x y color a, i = .wrpix x y color ∧ mapCoord x y = some a := by
  cases i with
  | wrpix x y color =>
    obtain ⟨a, ha⟩ := mapCoord_of_writePixel_ne (color := color) h
    exact .inr ⟨x, y, color, a, rfl, ha⟩
  | wipe => exact .inl rfl
  | output => exact absurd rfl h
  | bbox => exact absurd rfl h

/-- The second writer's turns that change the framebuffer. -/
theorem turn_of_writerTurn_fb_ne {s : State} {turn : WriterTurn} (h : (s.writerTurn turn).fb ≠ s.fb) :
    (∃ x y color a, turn = .wrpix x y color ∧ mapCoord x y = some a) ∨
      ∃ k a, turn = .wipeCell k ∧ s.wiping[k]? = some a := by
  cases turn with
  | core => exact absurd rfl h
  | wrpix x y color =>
    obtain ⟨a, ha⟩ := mapCoord_of_writePixel_ne (color := color) h
    exact .inl ⟨x, y, color, a, rfl, ha⟩
  | startWipe => exact absurd rfl h
  | wipeCell k =>
    cases hk : s.wiping[k]? with
    | some a => exact .inr ⟨k, a, rfl, hk⟩
    | none => rw [State.writerTurn_wipeCell_none hk] at h; exact absurd rfl h

/-- Settles O52: of the things that a step can do, only a command and a turn of the second writer reach the
framebuffer. -/
theorem onlyWritersChangeTheFramebuffer : Obligations.OnlyWritersChangeTheFramebuffer := by
  intro s t hstep hne
  cases stepsTo_of_step hstep with
  | scan =>
    obtain ⟨hfb, -⟩ := (s.setTurns s.turnsLeft).scanStep_frame
    exact absurd hfb hne
  | wait => exact absurd rfl hne
  | command turn idle constructed host decoded =>
    refine .inr ⟨turn, idle, constructed, _, _, host, ?_⟩
    obtain rfl | ⟨x, y, color, a, rfl, hcell⟩ := instr_of_effect_fb_ne hne
    · exact .inl decoded
    · exact .inr ⟨x, y, color, a, decoded, hcell⟩
  | illegal => exact absurd rfl hne
  | inert => exact absurd rfl hne
  | @writer mayMove turn turns head =>
    exact .inl ⟨mayMove, turn, turns, head, turn_of_writerTurn_fb_ne (s := s.setTurns turns) hne⟩

/-! ### What returns a response (30_encoding.md R66) -/

/-- The response of a step of the scan engine: OK where an `ok` ends the pass, or the failed call's error. -/
theorem scanStep_responses {s : State} (hpass : s.seq.phase ≠ .idle) :
    (s.nextAnswer = .ok ∧ s.scanStep.responses =
        s.responses ++ if (s.seq.succ s.cfg.bits).phase = .idle then [Response.done] else []) ∨
      ∃ e, s.nextAnswer = .err e ∧ s.scanStep.responses = s.responses ++ [Response.extErr e] := by
  obtain ⟨k, -, ⟨hok, h⟩ | ⟨e, herr, h⟩⟩ := State.scanStep_cases hpass <;> rw [h]
  · rw [State.advance_eq, okEffects_frame]
    exact .inl ⟨hok, rfl⟩
  · rw [failedEffects_frame]
    exact .inr ⟨e, herr, rfl⟩

/-- A command's own effect answers OK, but OUTPUT's answers nothing. -/
theorem effect_responses (i : Instr) (s : State) :
    (i = .output ∧ (effect i s).responses = s.responses) ∨
      (i ≠ .output ∧ ∃ d, (effect i s).responses = s.responses ++ [Response.okData d]) := by
  cases i with
  | wrpix x y color =>
    obtain ⟨m, hm⟩ := s.writePixel_frame x y color
    exact .inr ⟨by simp, 0, by rw [effect, hm]; rfl⟩
  | wipe => exact .inr ⟨by simp, 0, rfl⟩
  | output => exact .inl ⟨rfl, rfl⟩
  | bbox => exact .inr ⟨by simp, bboxData, rfl⟩

/-- Settles O56: each of the things that a step can do, with the response that it returns, if any. -/
theorem statusCodesNameTheirCauses : Obligations.StatusCodesNameTheirCauses := by
  refine ⟨rfl, rfl, rfl, rfl, fun s t r hstep hr => ?_⟩
  cases stepsTo_of_step hstep with
  | scan turn pass =>
    refine ⟨turn, ?_⟩
    rcases scanStep_responses (s := s.setTurns s.turnsLeft) pass with ⟨hok, h⟩ | ⟨e, herr, h⟩ <;>
      replace hr := List.append_cancel_left (h.symm.trans hr)
    · split at hr
      case isTrue hend =>
        obtain ⟨hshow, hplane, hrow⟩ := (Seq.succ_idle_iff pass).1 hend
        cases hr
        exact .inr ⟨hshow, hrow, hplane, hok⟩
      case isFalse => cases hr
    · cases hr
      exact ⟨pass, e, herr, rfl⟩
  | wait => simp at hr
  | @command turn idle constructed w ws i host decoded =>
    refine ⟨turn, ?_⟩
    rcases effect_responses i ((s.setTurns s.turnsLeft).setHostIn ws) with ⟨-, h⟩ | ⟨hne, d, h⟩ 
    · simp [h] at hr
    · cases List.append_cancel_left (h.symm.trans hr)
      exact .inl ⟨idle, constructed, w, ws, i, host, decoded, hne⟩
  | illegal turn idle constructed host undecoded =>
    cases List.append_cancel_left hr
    exact ⟨turn, idle, constructed, _, _, _, host, undecoded⟩
  | inert turn idle notConstructed host =>
    cases List.append_cancel_left hr
    exact ⟨turn, idle, notConstructed, _, _, host⟩
  | @writer _ turn turns =>
    obtain ⟨m, cs, h⟩ := (s.setTurns turns).writerTurn_frame turn
    simp [h] at hr

end Sys2Proof.Machine
end

section
/-! PROOFS. 42_scan_engine.md R94: no step looks into an error value, so renaming them commutes with every operation. -/

namespace Sys2Proof.Machine

section
variable (f : Err → Err)

theorem mapErr_respond (s : State) (r : Response) :
    (s.respond r).mapErr f = (s.mapErr f).respond { r with errval := r.errval.map f } := by
  simp [State.mapErr, State.respond]

theorem mapErr_record (s : State) (e : Event) :
    (s.record e).mapErr f = (s.mapErr f).record ⟨e.call, e.resp.mapErr f⟩ := by
  simp [State.mapErr, State.record]

theorem mapErr_consumeAnswer (s : State) : s.consumeAnswer.mapErr f = (s.mapErr f).consumeAnswer := by
  simp [State.mapErr, State.consumeAnswer]

theorem mapErr_setSeq (s : State) (q : Seq) : (s.setSeq q).mapErr f = (s.mapErr f).setSeq q := rfl

theorem mapErr_okEffects (k : Call) (s : State) : (okEffects k s).mapErr f = okEffects k (s.mapErr f) := by
  cases k with
  | colorSet h cell mask => cases h <;> rfl
  | _ => rfl

theorem mapErr_failedEffects (k : Call) (n : Nat) (s : State) :
    (failedEffects k n s).mapErr f = failedEffects k n (s.mapErr f) := by
  cases k with
  | colorSet h cell mask => cases h <;> rfl
  | _ => rfl

theorem mapErr_raiseExtError (s : State) (e : Err) :
    (s.raiseExtError e).mapErr f = (s.mapErr f).raiseExtError (f e) := by
  rw [State.raiseExtError, mapErr_respond]
  rfl

theorem mapErr_advance (s : State) : s.advance.mapErr f = (s.mapErr f).advance := by
  rcases s.advance_cases with ⟨hmore, h⟩ | ⟨hend, h⟩ <;> rw [h]
  · exact (if_neg hmore).symm
  · rw [mapErr_respond]
    exact (if_pos hend).symm

/-- The answer that comes in is renamed with the others, where one was fixed beforehand. -/
theorem nextAnswer_mapErr {s : State} (h : s.answers ≠ []) :
    (s.mapErr f).nextAnswer = s.nextAnswer.mapErr f := by
  obtain ⟨r, rs, hrs⟩ := List.exists_cons_of_ne_nil h
  simp [State.nextAnswer, State.mapErr, hrs]

theorem mapErr_scanStep {s : State} (h : s.answers ≠ []) : s.scanStep.mapErr f = (s.mapErr f).scanStep := by
  have hnext := nextAnswer_mapErr f h
  cases hcall : s.nextCall with
  | none => rw [State.scanStep, hcall, State.scanStep, show (s.mapErr f).nextCall = none from hcall]
  | some k =>
    rw [State.scanStep_eq hcall, State.scanStep_eq (s := s.mapErr f) hcall]
    cases hans : s.nextAnswer with
    | ok =>
      rw [hans] at hnext
      rw [State.issue_ok k hans, State.issue_ok k hnext, mapErr_advance, mapErr_okEffects, mapErr_record,
        mapErr_consumeAnswer]
      rfl
    | err e =>
      rw [hans] at hnext
      rw [State.issue_err k hans, State.issue_err k hnext, mapErr_raiseExtError, mapErr_failedEffects, mapErr_record,
        mapErr_consumeAnswer]
      rfl

theorem mapErr_writePixel (s : State) (x y : Int) (color : Rgb565) :
    (s.writePixel x y color).mapErr f = (s.mapErr f).writePixel x y color := by
  cases hcell : mapCoord x y with
  | some a => rw [State.writePixel_some s color hcell, State.writePixel_some _ color hcell]; rfl
  | none => rw [State.writePixel_none s color hcell, State.writePixel_none _ color hcell]

theorem mapErr_effect (i : Instr) (s : State) : (effect i s).mapErr f = effect i (s.mapErr f) := by
  cases i with
  | wrpix x y color => rw [effect, mapErr_respond, mapErr_writePixel]; rfl
  | wipe => exact mapErr_respond f _ _
  | output => rfl
  | bbox => exact mapErr_respond f _ _

theorem mapErr_wordEffect (w : Word) (s : State) : (wordEffect w s).mapErr f = wordEffect w (s.mapErr f) := by
  cases hdecode : decode w with
  | ok i => rw [wordEffect_ok hdecode, wordEffect_ok hdecode, mapErr_effect]
  | error e => rw [wordEffect_error hdecode, wordEffect_error hdecode, mapErr_respond]; rfl

theorem mapErr_writerTurn (s : State) (turn : WriterTurn) :
    (s.writerTurn turn).mapErr f = (s.mapErr f).writerTurn turn := by
  cases turn with
  | core => rfl
  | wrpix x y color => exact mapErr_writePixel f s x y color
  | startWipe => rfl
  | wipeCell k =>
    cases hk : s.wiping[k]? with
    | some a => rw [State.writerTurn_wipeCell hk, State.writerTurn_wipeCell (s := s.mapErr f) hk]; rfl
    | none => rw [State.writerTurn_wipeCell_none hk, State.writerTurn_wipeCell_none (s := s.mapErr f) hk]

/-- A word runs alike, whether it is accepted or answered NOT_CONSTRUCTED. -/
theorem runWord_mapErr (w : Word) {s : State} (hidle : s.seq.phase = .idle) :
    ∃ t, runWord w s = .next t ∧ runWord w (s.mapErr f) = .next (t.mapErr f) := by
  rw [runWord_eq, runWord_eq]
  cases hconstructed : s.cfg.constructed
  · rw [State.onHostPort_inert hidle hconstructed, State.onHostPort_inert (s := s.mapErr f) hidle hconstructed]
    exact ⟨_, rfl, by rw [mapErr_respond]; rfl⟩
  · rw [State.onHostPort_accepts hidle hconstructed, State.onHostPort_accepts (s := s.mapErr f) hidle hconstructed]
    exact ⟨_, rfl, by rw [mapErr_wordEffect]⟩

theorem coreStep_mapErr {s : State} (h : s.answers ≠ []) :
    ∃ t, coreStep s = .next t ∧ coreStep (s.mapErr f) = .next (t.mapErr f) := by
  by_cases hidle : s.seq.phase = .idle
  · cases hhost : s.hostIn with
    | nil => exact ⟨s, by simp [coreStep, hidle, hhost], by simp [coreStep, State.mapErr, hidle, hhost]⟩
    | cons w ws =>
      have hcore : coreStep s = runWord w (s.setHostIn ws) := by simp [coreStep, hidle, hhost]
      have hcore' : coreStep (s.mapErr f) = runWord w ((s.setHostIn ws).mapErr f) := by
        simp [coreStep, State.mapErr, State.setHostIn, hidle, hhost]
      rw [hcore, hcore']
      exact runWord_mapErr f w hidle
  · exact ⟨s.scanStep, if_pos hidle, by rw [mapErr_scanStep f h]; exact if_pos hidle⟩

end

/-- Settles O54: CORE's step and the second writer's turn each commute with the renaming, and the state that says whose
turn it is holds no error value. -/
theorem errorValuesAreNeverInspected : Obligations.ErrorValuesAreNeverInspected := by
  intro f s h
  rcases step_cases s with ⟨hturn, hstep⟩ | ⟨turn, ts, hmay, hturns, hne, hstep⟩
  · rw [hstep, step_coresTurn (s := s.mapErr f) hturn]
    exact coreStep_mapErr f (s := s.setTurns s.turnsLeft) h
  · refine ⟨_, hstep, ?_⟩
    rw [step_writer (s := s.mapErr f) hmay hturns hne, mapErr_writerTurn]
    rfl

end Sys2Proof.Machine
end

section
/-! PROOFS. The closed form of a pass: where each call stands, and what its calls add up to (42_scan_engine.md R106,
70_reset_and_hazards.md R136). -/

namespace Sys2Proof.Machine

/-! ### Lists made of blocks of one length -/

/-- Place `j` of block `i`. -/
theorem getElem?_flatMap_block {α β : Type} {f : α → List β} {n i j : Nat} {l : List α} {a : α}
    (hlen : ∀ b, (f b).length = n) (ha : l[i]? = some a) (hj : j < n) : (l.flatMap f)[i * n + j]? = (f a)[j]? := by
  induction l generalizing i with
  | nil => simp at ha
  | cons b l ih =>
    cases i with
    | zero =>
      obtain rfl : b = a := by simpa using ha
      rw [List.flatMap_cons, List.getElem?_append_left (by rw [hlen]; omega)]
      simp
    | succ i =>
      rw [List.flatMap_cons, List.getElem?_append_right (by rw [hlen, Nat.succ_mul]; omega), hlen,
        show (i + 1) * n + j - n = i * n + j by rw [Nat.succ_mul]; omega]
      exact ih (by simpa using ha)

theorem sum_map_flatMap {α β : Type} (g : β → Nat) (f : α → List β) (l : List α) :
    ((l.flatMap f).map g).sum = (l.map fun a => ((f a).map g).sum).sum := by
  induction l with
  | nil => rfl
  | cons a l ih => simp [ih]

/-- Counting is adding up ones. -/
theorem countP_eq_sum_map {α : Type} (p : α → Bool) (l : List α) :
    l.countP p = (l.map fun a => if p a then 1 else 0).sum := by
  induction l with
  | nil => rfl
  | cons a l ih => rw [List.countP_cons, List.map_cons, List.sum_cons, ih, Nat.add_comm]

theorem sum_map_const {α : Type} (l : List α) (n : Nat) : (l.map fun _ => n).sum = l.length * n := by
  rw [List.map_const', List.sum_replicate_nat]

section
variable (m : Mem) (bits h : Nat)

/-! ### Where each call stands -/

theorem planes_getElem? {p : Fin 8} (hp : p.val < bits) : (planes bits)[p.val]? = some p := by
  simp [planes, hp]

/-- Call `k` of column `c` of a plane. -/
theorem planeCalls_column (row : Fin 16) (mask : Fin 8) (c : Fin 64) {k : Nat} (hk : k < 3) :
    (planeCalls m bits h row mask)[3 * c.val + k]? = (columnCalls m row mask c)[k]? := by
  have hcolumn :
      ((List.finRange 64).flatMap (columnCalls m row mask))[c.val * 3 + k]? = (columnCalls m row mask c)[k]? :=
    getElem?_flatMap_block (fun _ => rfl) (by simp) hk
  rw [planeCalls, List.getElem?_append_left (by simp [List.length_flatMap, columnCalls]; omega), Nat.mul_comm, hcolumn]

/-- The two calls after the columns of a plane. -/
theorem planeCalls_closing (row : Fin 16) (mask : Fin 8) (k : Nat) :
    (planeCalls m bits h row mask)[192 + k]? = [Call.latch, .showFor (duration bits h mask)][k]? := by
  have hlen : ((List.finRange 64).flatMap (columnCalls m row mask)).length = 192 := by
    simp [List.length_flatMap, columnCalls]
  rw [planeCalls, List.getElem?_append_right (by omega), hlen, Nat.add_sub_cancel_left]

/-- The first call of a row. -/
theorem passCalls_row (r : Fin 16) : (passCalls m bits h)[rowSetIndex bits r]? = some (.rowSet r) := by
  have hpos : 0 < callsPerRow bits := by rw [callsPerRow]; omega
  exact getElem?_flatMap_block (rowCalls_length m bits h) (by simp) hpos

/-- Call `i` of a plane of a row. -/
theorem passCalls_plane (r : Fin 16) {p : Fin 8} (hp : p.val < bits) {i : Nat} (hi : i < 194) :
    (passCalls m bits h)[planeIndex bits r p + i]? = (planeCalls m bits h r p)[i]? := by
  have hlt : 1 + (p.val * 194 + i) < callsPerRow bits := by rw [callsPerRow]; omega
  calc (passCalls m bits h)[planeIndex bits r p + i]?
    _ = (passCalls m bits h)[r.val * callsPerRow bits + (1 + (p.val * 194 + i))]? := by
      rw [planeIndex, show r.val * callsPerRow bits + 1 + p.val * 194 + i =
        r.val * callsPerRow bits + (1 + (p.val * 194 + i)) by omega]
    _ = (rowCalls m bits h r)[1 + (p.val * 194 + i)]? :=
      getElem?_flatMap_block (rowCalls_length m bits h) (by simp) hlt
    _ = ((planes bits).flatMap (planeCalls m bits h r))[p.val * 194 + i]? := by
      rw [rowCalls, Nat.add_comm, List.getElem?_cons_succ]
    _ = (planeCalls m bits h r p)[i]? :=
      getElem?_flatMap_block (planeCalls_length m bits h r) (planes_getElem? bits hp) hi

/-- Call `k` of a column, at its index of R106. -/
theorem passCalls_column (r : Fin 16) {p : Fin 8} (hp : p.val < bits) (c : Fin 64) {k : Nat} (hk : k < 3) :
    (passCalls m bits h)[colorIndex bits r p c + k]? = (columnCalls m r p c)[k]? := by
  rw [colorIndex, Nat.add_assoc, passCalls_plane m bits h r hp (by omega), planeCalls_column m bits h r p c hk]

/-! ### What the calls add up to -/

@[simp] theorem length_planes : (planes bits).length = bits := by simp [planes]

/-- The planes are the numbers below BITS. -/
theorem planes_map_val {bits : Nat} (hle : bits ≤ 8) : (planes bits).map Fin.val = List.range bits := by
  rw [planes, List.map_map, List.map_congr_left (g := id), List.map_id]
  intro p hp
  exact Nat.mod_eq_of_lt (by have := List.mem_range.1 hp; omega)

/-- A quantity of a call that depends only on its kind, and for a Show on its duration, summed over a pass. -/
theorem sum_map_passCalls {bits : Nat} (hle : bits ≤ 8) (g : Call → Nat) {gRow gUpper gLower : Nat}
    (hrow : ∀ row, g (.rowSet row) = gRow) (hupper : ∀ c mask, g (.colorSet .upper c mask) = gUpper)
    (hlower : ∀ c mask, g (.colorSet .lower c mask) = gLower) :
    ((passCalls m bits h).map g).sum =
      16 * (gRow + bits * (64 * (gUpper + gLower + g .shift) + g .latch) +
        ((List.range bits).map fun p => g (.showFor (duration bits h p))).sum) := by
  have hcolumn (row : Fin 16) (mask : Fin 8) (c : Fin 64) : ((columnCalls m row mask c).map g).sum =
      gUpper + gLower + g .shift := by
    simp [columnCalls, hupper, hlower, Nat.add_assoc]
  have hplane (row : Fin 16) (mask : Fin 8) : ((planeCalls m bits h row mask).map g).sum =
      64 * (gUpper + gLower + g .shift) + g .latch + g (.showFor (duration bits h mask)) := by
    rw [planeCalls, List.map_append, List.sum_append, sum_map_flatMap]
    simp only [hcolumn, sum_map_const, List.length_finRange]
    simp [Nat.add_assoc]
  have hrowCalls (row : Fin 16) : ((rowCalls m bits h row).map g).sum =
      gRow + bits * (64 * (gUpper + gLower + g .shift) + g .latch) +
        ((List.range bits).map fun p => g (.showFor (duration bits h p))).sum := by
    rw [rowCalls, List.map_cons, List.sum_cons, hrow, sum_map_flatMap, ← planes_map_val hle, List.map_map]
    simp only [hplane, List.sum_map_add, sum_map_const, length_planes, Function.comp_def]
    ring
  rw [passCalls, sum_map_flatMap]
  simp only [hrowCalls, sum_map_const, List.length_finRange]

/-- How many calls of a pass are of a kind. -/
theorem countP_passCalls {bits : Nat} (hle : bits ≤ 8) (p : Call → Bool) {row upper lower shift latch held : Bool}
    (hrow : ∀ r, p (.rowSet r) = row) (hupper : ∀ c mask, p (.colorSet .upper c mask) = upper)
    (hlower : ∀ c mask, p (.colorSet .lower c mask) = lower) (hshift : p .shift = shift) (hlatch : p .latch = latch)
    (hshow : ∀ d, p (.showFor d) = held) :
    (passCalls m bits h).countP p =
      16 * (row.toNat + bits * (64 * (upper.toNat + lower.toNat + shift.toNat) + latch.toNat) + bits * held.toNat) := by
  have hval (k : Call) : (if p k then 1 else 0) = (p k).toNat := by cases p k <;> rfl
  rw [countP_eq_sum_map]
  simp only [hval]
  rw [sum_map_passCalls m h hle _ (gRow := row.toNat) (gUpper := upper.toNat) (gLower := lower.toNat)
    (by simp [hrow]) (by simp [hupper]) (by simp [hlower]), hshift, hlatch]
  simp only [hshow, sum_map_const, List.length_range]

end

/-- Settles O40: the numbers by kind, and each call at its place in its plane and its row. -/
theorem passCallIndices : Obligations.PassCallIndices := by
  intro m bits h hpos hle
  refine ⟨?length, ?rows, ?upper, ?lower, ?shifts, ?latches, ?shows, fun r p c hp => ?places⟩
  case length => rw [passCalls_length, callsPerPass, callsPerRow]; omega
  case places =>
    refine ⟨passCalls_row m bits h r, passCalls_column m bits h r hp c (by omega : 0 < 3),
      passCalls_column m bits h r hp c (by omega : 1 < 3), passCalls_column m bits h r hp c (by omega : 2 < 3), ?_, ?_⟩
    · exact (passCalls_plane m bits h r hp (by omega : 192 < 194)).trans (planeCalls_closing m bits h r p 0)
    · exact (passCalls_plane m bits h r hp (by omega : 193 < 194)).trans (planeCalls_closing m bits h r p 1)
  all_goals
    rw [countP_passCalls m h hle _ (fun _ => rfl) (fun _ _ => rfl) (fun _ _ => rfl) rfl rfl fun _ => rfl]
    simp only [Bool.toNat_true, Bool.toNat_false]
    omega

/-- Settles O45: the waits by kind, and the durations in DELAY_UNITs. -/
theorem passWaitsAddUp : Obligations.PassWaitsAddUp := by
  intro m bits h _ hle
  rw [sum_map_passCalls m h hle callWait (fun _ => rfl) (fun _ _ => rfl) fun _ _ => rfl]
  simp only [callWait, List.sum_map_mul_right]
  ring

end Sys2Proof.Machine
end

section
/-! PROOFS. 42_scan_engine.md: a full pass whose calls all return `ok`. What the calls do to the lines, the panel and
the display is a fold over their list, computed along the closed form; the machine's run reaches that fold. -/

namespace Sys2Proof.Machine

/-! ### The calls' effects, folded over their list -/

/-- The effects of calls that return `ok`, one after the other. -/
def drive (ks : List Call) (s : State) : State := ks.foldl (fun s k => okEffects k s) s

@[simp] theorem drive_nil (s : State) : drive [] s = s := rfl

@[simp] theorem drive_cons (k : Call) (ks : List Call) (s : State) : drive (k :: ks) s = drive ks (okEffects k s) := rfl

theorem drive_append (ks ls : List Call) (s : State) : drive (ks ++ ls) s = drive ls (drive ks s) :=
  List.foldl_append ..

/-- The effects reach the lines, the panel and the display, nothing else. -/
theorem drive_frame (ks : List Call) (s : State) :
    drive ks s =
      { s with pins := (drive ks s).pins, panel := (drive ks s).panel, display := (drive ks s).display } := by
  induction ks generalizing s with
  | nil => rfl
  | cons k ks ih =>
    rw [drive_cons, ih, okEffects_frame]

/-- Two states that agree on the lines, the panel, the display and the configuration. -/
structure State.SamePanel (s t : State) : Prop where
  pins : t.pins = s.pins
  panel : t.panel = s.panel
  display : t.display = s.display
  cfg : t.cfg = s.cfg

/-- A call's effects read and write no more than these. -/
theorem State.SamePanel.okEffects {s t : State} (hst : s.SamePanel t) (k : Call) :
    (okEffects k s).SamePanel (okEffects k t) := by
  obtain ⟨hpins, hpanel, hdisplay, hcfg⟩ := hst
  cases k with
  | colorSet h cell mask => cases h <;> constructor <;> simp [Machine.okEffects, hpins, hpanel, hdisplay, hcfg]
  | _ => constructor <;> simp [Machine.okEffects, State.exhibit, hpins, hpanel, hdisplay, hcfg]

theorem State.SamePanel.drive {s t : State} (hst : s.SamePanel t) (ks : List Call) :
    (drive ks s).SamePanel (drive ks t) := by
  induction ks generalizing s t with
  | nil => exact hst
  | cons k ks ih => exact ih (hst.okEffects k)

theorem State.SamePanel.trans {s t u : State} (hst : s.SamePanel t) (htu : t.SamePanel u) : s.SamePanel u :=
  ⟨htu.pins.trans hst.pins, htu.panel.trans hst.panel, htu.display.trans hst.display, htu.cfg.trans hst.cfg⟩

/-! ### The machine's run of the calls -/

/-- Where no call is left, the pass is over. -/
theorem State.Scanning.idle_of_nil {s : State} (hs : s.Scanning []) : s.seq.phase = .idle := by
  by_contra hpass
  obtain ⟨k, hk⟩ := State.nextCall_isSome hpass
  have := callsFrom_succ hs.bits_pos hs.bits_le hs.plane_lt hk
  rw [hs.calls_eq] at this
  cases this

/-- An `ok` to the first of the calls left takes it off, whether or not others follow. -/
theorem State.Scanning.step {s : State} {k : Call} {ks : List Call} {as : List Resp} (hs : s.Scanning (k :: ks))
    (hans : s.answers = .ok :: as) : s.scanStep.Scanning ks := by
  obtain ⟨hcall, hrest⟩ := hs.nextCall_and_rest
  obtain ⟨hfb, -, hcfg, -⟩ := s.scanStep_frame
  have hseq : s.scanStep.seq = s.seq.succ s.cfg.bits := by rw [scanStep_of_ok hcall hans]
  refine ⟨scanStep_coreMoves hs.coreMoves, ?_, ?_, ?_, ?_⟩ <;> rw [hcfg]
  · exact hs.bits_pos
  · exact hs.bits_le
  · rw [hseq]; exact Seq.succ_plane_lt hs.bits_le hs.plane_lt
  · rw [hfb, hseq]; exact hrest

/-- What the calls `ks`, all that were left and each answered `ok`, leave of `s` in `t`. -/
structure State.AfterPass (s : State) (ks : List Call) (t : State) : Prop where
  samePanel : (drive ks s).SamePanel t
  idle : t.seq.phase = .idle
  trace : t.trace = s.trace ++ ks.map Call.okEvent
  responses : t.responses = s.responses ++ if ks = [] then [] else [Response.done]
  answers : t.answers = s.answers.drop ks.length
  fb : t.fb = s.fb
  lut : t.lut = s.lut
  hostIn : t.hostIn = s.hostIn

/-- An `ok` before the rest of a pass. -/
theorem State.Scanning.afterPass_cons {s t : State} {k : Call} {ks : List Call} {as : List Resp}
    (hs : s.Scanning (k :: ks)) (hans : s.answers = .ok :: as) (ht : s.scanStep.AfterPass ks t) :
    s.AfterPass (k :: ks) t := by
  obtain ⟨hcall, -⟩ := hs.nextCall_and_rest
  obtain ⟨hfb, hlut, -, -, hhost, -, -⟩ := s.scanStep_frame
  have hend : (s.seq.succ s.cfg.bits).phase = .idle ↔ ks = [] := by
    have hnext := hs.step hans
    have hseq : s.scanStep.seq = s.seq.succ s.cfg.bits := by rw [scanStep_of_ok hcall hans]
    rw [← hseq]
    refine ⟨fun hidle => hnext.calls_eq.symm.trans (callsFrom_idle hidle), fun hks => ?_⟩
    subst hks
    exact hnext.idle_of_nil
  have hpanel : (okEffects k s).SamePanel s.scanStep := by rw [scanStep_of_ok hcall hans]; exact ⟨rfl, rfl, rfl, rfl⟩
  refine ⟨(hpanel.drive ks).trans ht.samePanel, ht.idle, ?_, ?_, ?_, ht.fb.trans hfb, ht.lut.trans hlut,
    ht.hostIn.trans hhost⟩
  · rw [ht.trace, scanStep_of_ok hcall hans]; simp [Call.okEvent]
  · rw [ht.responses, scanStep_of_ok hcall hans]
    by_cases hks : ks = [] <;> simp [hend, hks]
  · rw [ht.answers, scanStep_of_ok hcall hans, hans]; simp

/-- As many steps as calls are left, all answered `ok`, run the pass to its end. -/
theorem State.Scanning.run_pass {ks : List Call} {s : State} (hs : s.Scanning ks)
    (hans : s.okAhead ks.length) : ∃ t : State, core.run ks.length s = .next t ∧ s.AfterPass ks t := by
  induction ks generalizing s with
  | nil => exact ⟨s, rfl, ⟨rfl, rfl, rfl, rfl⟩, hs.idle_of_nil, by simp, by simp, by simp, rfl, rfl, rfl⟩
  | cons k ks ih =>
    obtain ⟨as, has, hans'⟩ : ∃ as, s.answers = .ok :: as ∧ as.take ks.length = List.replicate ks.length .ok := by
      cases has : s.answers with
      | nil => simp [State.okAhead, has] at hans
      | cons r as =>
        rw [State.okAhead, has, List.length_cons, List.take_succ_cons, List.replicate_succ] at hans
        obtain ⟨rfl, hrest⟩ := List.cons.inj hans
        exact ⟨as, rfl, hrest⟩
    have hnext : s.scanStep.answers = as := by rw [scanStep_of_ok hs.nextCall_and_rest.1 has]
    obtain ⟨t, hrun, ht⟩ := ih (hs.step has) (by rw [State.okAhead, hnext, hans'])
    exact ⟨t, (run_succ _ s _ (step_scan hs.coreMoves hs.phase_ne_idle)).trans hrun, hs.afterPass_cons has ht⟩

/-- OUTPUT and the steps of a full pass, from a free, legally constructed state. -/
theorem run_output {s : State} (hcore : s.coreMoves) (hidle : s.seq.phase = .idle)
    (hconstructed : s.cfg.constructed = true) (hlegal : s.cfgLegal) (hans : s.okAhead (callsPerPass s.cfg.bits)) :
    ∃ t : State, exec .output s = .next (effect .output s) ∧
      core.run (callsPerPass s.cfg.bits) (effect .output s) = .next t ∧
      (effect .output s).AfterPass (passCalls s.fb s.cfg.bits s.cfg.h) t := by
  obtain ⟨hpos, hle⟩ := hlegal hconstructed
  rw [← passCalls_length s.fb s.cfg.bits s.cfg.h] at hans ⊢
  obtain ⟨t, hrun, ht⟩ := (State.scanning_start hcore hpos hle).run_pass hans
  exact ⟨t, exec_of_free hidle hconstructed .output, hrun, ht⟩

/-! ### The fold along the closed form -/

section
variable (m : Mem) (h : Nat)

/-- The columns' calls shift in a pair for each column. -/
theorem drive_columns (row : Fin 16) (mask : Fin 8) (cs : List (Fin 64)) (s : State) :
    (drive (cs.flatMap (columnCalls m row mask)) s).panel =
        { s.panel with sr := s.panel.sr ++ cs.map (columnBits m s.cfg.bits row mask) } ∧
      (drive (cs.flatMap (columnCalls m row mask)) s).display = s.display ∧
      (drive (cs.flatMap (columnCalls m row mask)) s).pins.rowsel = s.pins.rowsel := by
  induction cs generalizing s with
  | nil => simp
  | cons c cs ih =>
    obtain ⟨hpanel, hdisplay, hrowsel⟩ := ih (drive (columnCalls m row mask c) s)
    rw [List.flatMap_cons, drive_append, hpanel, hdisplay, hrowsel]
    simp [columnCalls, okEffects, columnBits]

theorem drive_oe {s : State} (hoe : s.pins.oe = true) (ks : List Call) : (drive ks s).pins.oe = true := by
  induction ks generalizing s with
  | nil => exact hoe
  | cons k ks ih => exact ih (okEffects_oe hoe k)

/-- 64 pairs just shifted in are the last 64. -/
theorem lastColumns_append {sr cols : List ColumnBits} (hlen : cols.length = 64) : lastColumns (sr ++ cols) = cols := by
  rw [lastColumns, List.length_append, hlen, Nat.add_sub_cancel, List.drop_left]

/-- A latch and a Show display the last 64 pairs on the selected row pair, and leave OE high. -/
theorem drive_latch_show (d : Nat) (s : State) :
    (drive [.latch, .showFor d] s).display = s.display ++ [⟨s.pins.rowsel, lastColumns s.panel.sr, d⟩] ∧
      (drive [.latch, .showFor d] s).pins.rowsel = s.pins.rowsel ∧
      (drive [.latch, .showFor d] s).pins.oe = true := ⟨rfl, rfl, rfl⟩

/-- The calls of a plane display its bits on the selected row pair. -/
theorem drive_plane (row : Fin 16) (mask : Fin 8) (s : State) :
    (drive (planeCalls m s.cfg.bits h row mask) s).display = s.display ++
        [⟨s.pins.rowsel, (List.finRange 64).map (columnBits m s.cfg.bits row mask), duration s.cfg.bits h mask⟩] ∧
      (drive (planeCalls m s.cfg.bits h row mask) s).pins.rowsel = s.pins.rowsel ∧
      (drive (planeCalls m s.cfg.bits h row mask) s).pins.oe = true := by
  obtain ⟨hpanel, hdisplay, hrowsel⟩ := drive_columns m row mask (List.finRange 64) s
  obtain ⟨hdisplay', hrowsel', hoe⟩ := drive_latch_show (duration s.cfg.bits h mask)
    (drive ((List.finRange 64).flatMap (columnCalls m row mask)) s)
  rw [planeCalls, drive_append, hdisplay', hrowsel', hdisplay, hrowsel, hpanel, lastColumns_append (by simp)]
  exact ⟨rfl, rfl, hoe⟩

@[simp] theorem drive_cfg (ks : List Call) (s : State) : (drive ks s).cfg = s.cfg := by rw [drive_frame]

/-- The calls of some planes display each of them, and leave OE high where there is one. -/
theorem drive_planes (row : Fin 16) (ps : List (Fin 8)) (s : State) (hrow : s.pins.rowsel = BitVec.ofNat 4 row.val) :
    (drive (ps.flatMap (planeCalls m s.cfg.bits h row)) s).display =
        s.display ++ ps.map (planeFrame m s.cfg.bits h row) ∧
      (drive (ps.flatMap (planeCalls m s.cfg.bits h row)) s).pins.rowsel = BitVec.ofNat 4 row.val ∧
      (ps ≠ [] → (drive (ps.flatMap (planeCalls m s.cfg.bits h row)) s).pins.oe = true) := by
  induction ps generalizing s with
  | nil => simp [hrow]
  | cons p ps ih =>
    obtain ⟨hdisplay, hrowsel, hoe⟩ := drive_plane m h row p s
    obtain ⟨hdisplay', hrowsel', -⟩ := ih (drive (planeCalls m s.cfg.bits h row p) s) (hrowsel.trans hrow)
    rw [drive_cfg] at hdisplay' hrowsel'
    rw [List.flatMap_cons, drive_append]
    refine ⟨?_, hrowsel', fun _ => drive_oe hoe _⟩
    rw [hdisplay', hdisplay, hrow]
    simp [planeFrame]

/-- The calls of a row display its planes, and leave the row selected and OE high. -/
theorem drive_row (row : Fin 16) (s : State) (hpos : 1 ≤ s.cfg.bits) :
    (drive (rowCalls m s.cfg.bits h row) s).display =
        s.display ++ (planes s.cfg.bits).map (planeFrame m s.cfg.bits h row) ∧
      (drive (rowCalls m s.cfg.bits h row) s).pins.rowsel = BitVec.ofNat 4 row.val ∧
      (drive (rowCalls m s.cfg.bits h row) s).pins.oe = true := by
  have hsome : planes s.cfg.bits ≠ [] := List.ne_nil_of_length_pos (by simpa)
  obtain ⟨hdisplay, hrowsel, hoe⟩ := drive_planes m h row (planes s.cfg.bits) (okEffects (.rowSet row) s) rfl
  exact ⟨hdisplay, hrowsel, hoe hsome⟩

/-- The calls of some rows display each of them. -/
theorem drive_rows (rows : List (Fin 16)) (s : State) (hpos : 1 ≤ s.cfg.bits) :
    (drive (rows.flatMap (rowCalls m s.cfg.bits h)) s).display =
      s.display ++ rows.flatMap fun row => (planes s.cfg.bits).map (planeFrame m s.cfg.bits h row) := by
  induction rows generalizing s with
  | nil => simp
  | cons row rows ih =>
    obtain ⟨hdisplay, -, -⟩ := drive_row m h row s hpos
    have hrest := ih (drive (rowCalls m s.cfg.bits h row) s) (by rwa [drive_cfg])
    rw [drive_cfg] at hrest
    rw [List.flatMap_cons, drive_append, hrest, hdisplay, List.flatMap_cons, List.append_assoc]

/-- A pass ends with row 15. -/
theorem passCalls_eq_append (bits : Nat) :
    passCalls m bits h = ((List.finRange 16).take 15).flatMap (rowCalls m bits h) ++ rowCalls m bits h 15 := by
  have hlast : List.finRange 16 = (List.finRange 16).take 15 ++ [15] := by decide
  rw [passCalls]
  conv_lhs => rw [hlast]
  simp

/-- The calls of a pass leave row 15 selected and OE high. -/
theorem drive_pass_pins (s : State) (hpos : 1 ≤ s.cfg.bits) :
    (drive (passCalls m s.cfg.bits h) s).pins.rowsel = 15 ∧ (drive (passCalls m s.cfg.bits h) s).pins.oe = true := by
  rw [passCalls_eq_append, drive_append]
  have hlast := drive_row m h 15 (drive (((List.finRange 16).take 15).flatMap (rowCalls m s.cfg.bits h)) s)
    (by rwa [drive_cfg])
  rw [drive_cfg] at hlast
  obtain ⟨-, hrowsel, hoe⟩ := hlast
  exact ⟨hrowsel, hoe⟩

end

/-- Settles O37: the run of the pass, and the lines that its calls leave. -/
theorem passIssuesItsCallsInOrder : Obligations.PassIssuesItsCallsInOrder := by
  intro s hcore hidle hconstructed hlegal hans
  obtain ⟨t, hexec, hrun, ht⟩ := run_output hcore hidle hconstructed hlegal hans
  obtain ⟨hrowsel, hoe⟩ := drive_pass_pins s.fb s.cfg.h (effect .output s) (hlegal hconstructed).1
  have hsome : passCalls s.fb s.cfg.bits s.cfg.h ≠ [] := by rw [passCalls_eq_append, rowCalls]; simp
  refine ⟨_, t, hexec, hrun, ht.trace, ?_, ht.idle, ?_, ?_, ht.fb, ht.lut, ?_, ht.hostIn, ?_⟩
  · rw [ht.responses, if_neg hsome]; rfl
  · rw [ht.samePanel.pins]; exact hrowsel
  · rw [ht.samePanel.pins]; exact hoe
  · rw [ht.samePanel.cfg, drive_cfg]; rfl
  · rw [ht.answers, passCalls_length]; rfl

/-- Settles O38: the run of the pass, and the frames that its calls display. -/
theorem passDisplaysEveryPlane : Obligations.PassDisplaysEveryPlane := by
  intro s hcore hidle hconstructed hlegal hans
  obtain ⟨t, hexec, hrun, ht⟩ := run_output hcore hidle hconstructed hlegal hans
  refine ⟨_, t, hexec, hrun, ht.samePanel.display.trans ?_⟩
  exact drive_rows s.fb s.cfg.h (List.finRange 16) (effect .output s) (hlegal hconstructed).1

/-- The colour call of a half is the first or the second of its column's calls. -/
theorem columnCalls_half (m : Mem) (a : FbAddr) (mask : Fin 8) :
    (columnCalls m a.row mask a.col)[a.half.index]? = some (.colorSet a.half (m.readCell a) mask) := by
  obtain ⟨h, row, col⟩ := a
  cases h <;> rfl

/-- Settles O55: the pass's trace is its closed form, whose colour call of the pixel's cell reads what WRPIX wrote. -/
theorem writtenPixelReachesTheNextPass : Obligations.WrittenPixelReachesTheNextPass := by
  intro s x y color a p hcore hidle hconstructed hlegal hcell hp hans
  have hv : effect (.wrpix x y color) s =
      (s.setFb (s.fb.writeCell a (quantize s.lut color))).respond Response.done := by
    rw [effect, State.writePixel_some s color hcell]
  have hexec := exec_of_free hidle hconstructed (.wrpix x y color)
  rw [hv] at hexec
  obtain ⟨t, hout, hrun, ht⟩ := run_output
    (s := (s.setFb (s.fb.writeCell a (quantize s.lut color))).respond Response.done)
    hcore hidle hconstructed hlegal hans
  refine ⟨_, _, t, hexec, hout, hrun, ?_⟩
  have hhalf : a.half.index < 3 := by cases a.half <;> decide
  have htrace : t.trace.drop s.trace.length =
      (passCalls (s.fb.writeCell a (quantize s.lut color)) s.cfg.bits s.cfg.h).map Call.okEvent := by
    rw [ht.trace]
    exact List.drop_left
  rw [htrace, List.getElem?_map, passCalls_column _ _ _ _ hp _ hhalf, columnCalls_half, Mem.readCell_writeCell_self]
  rfl

end Sys2Proof.Machine
end

section
/-! PROOFS. 41_brightness_compensator.md: the durations of the planes (R88), and how long a channel is lit (R89). -/

namespace Sys2Proof.Machine

/-! ### Durations (R85, R88) -/

/-- The divisor `2^BITS - 1`. -/
theorem divisor_pos {bits : Nat} (hpos : 1 ≤ bits) : 0 < 2 ^ bits - 1 := by
  have : 2 ^ 1 ≤ 2 ^ bits := Nat.pow_le_pow_right (by decide) hpos
  omega

theorem duration_mul_le (bits h m : Nat) : (2 ^ bits - 1) * duration bits h m ≤ 2 ^ m * h := Nat.mul_div_le _ _

theorem lt_duration_succ_mul {bits : Nat} (hpos : 1 ≤ bits) (h m : Nat) :
    2 ^ m * h < (2 ^ bits - 1) * (duration bits h m + 1) := Nat.lt_mul_div_succ _ (divisor_pos hpos)

/-- A duration is at least doubled by the next plane. -/
theorem two_mul_duration_le (bits h m : Nat) : 2 * duration bits h m ≤ duration bits h (m + 1) := by
  calc 2 * duration bits h m
    _ ≤ 2 * (2 ^ m * h) / (2 ^ bits - 1) := Nat.mul_div_le_mul_div_assoc ..
    _ = duration bits h (m + 1) := by rw [duration, Nat.pow_succ', Nat.mul_assoc]

theorem duration_mono (bits h : Nat) : Monotone (duration bits h) :=
  monotone_nat_of_le_succ fun m => by have := two_mul_duration_le bits h m; omega

/-- The first `n` durations add up to `(2^n - 1) * H` divisors, short of one divisor for each floor at most. -/
theorem sum_durations_bounds {bits : Nat} (hpos : 1 ≤ bits) (h n : Nat) :
    (2 ^ bits - 1) * ((List.range n).map (duration bits h)).sum ≤ (2 ^ n - 1) * h ∧
      (2 ^ n - 1) * h + n ≤ (2 ^ bits - 1) * (((List.range n).map (duration bits h)).sum + n) := by
  induction n with
  | zero => simp
  | succ n ih =>
    have hle := duration_mul_le bits h n
    have hlt := lt_duration_succ_mul hpos h n
    have hsplit : (2 ^ (n + 1) - 1) * h = (2 ^ n - 1) * h + 2 ^ n * h := by
      rw [← Nat.add_mul]
      congr 1
      have := Nat.one_le_two_pow (n := n)
      omega
    rw [List.sum_range_succ, hsplit]
    constructor
    · rw [Nat.mul_add]; omega
    · rw [Nat.add_add_add_comm _ (duration bits h n), Nat.mul_add]; omega

/-- Settles O42: P1 and P2 from the doubling, the sum from the bounds at `n = BITS`, the rest by computing. -/
theorem durationsAreBinaryWeighted : Obligations.DurationsAreBinaryWeighted := by
  intro bits h hpos hle
  obtain ⟨hsum, hsum'⟩ := sum_durations_bounds hpos h bits
  refine ⟨fun m => ⟨two_mul_duration_le bits h m, duration_mono bits h (Nat.le_succ m)⟩,
    duration_mono bits h (Nat.zero_le _), ⟨?_, Nat.le_of_mul_le_mul_left hsum (divisor_pos hpos)⟩, ?_, ?_, ?_, ?_⟩
  · exact Nat.lt_of_mul_lt_mul_left (a := 2 ^ bits - 1) (by omega)
  · rintro rfl; simp [duration]
  · rintro rfl m; simp [duration]
  · intro hlt; simpa [duration] using Nat.div_eq_of_lt hlt
  · intro s hshow hzero; rw [State.nextCall, hshow, ← hzero]

/-! ### Lit time (R89) -/

/-- The low bits of a number, each with its weight. -/
theorem sum_testBit (x n : Nat) : ((List.range n).map fun m => if x.testBit m then 2 ^ m else 0).sum = x % 2 ^ n := by
  induction n with
  | zero => simp [Nat.mod_one]
  | succ n ih =>
    rw [List.sum_range_succ, ih, Nat.mod_pow_succ, ← Nat.toNat_testBit]
    cases x.testBit n <;> simp

/-- The displayed value, bit by bit: plane `m` shows its bit `m` (R77, R96). -/
theorem displayedValue_eq_sum {bits : Nat} (hle : bits ≤ 8) (v : Byte) :
    displayedValue bits v = ((List.range bits).map fun m => if v.getLsbD (bitPos bits m) then 2 ^ m else 0).sum := by
  have hlt : displayedValue bits v < 2 ^ bits := by
    rw [displayedValue, channelBits, Nat.div_lt_iff_lt_mul (by positivity), ← Nat.pow_add,
      show bits + (8 - bits) = 8 by omega]
    exact v.isLt
  have hbit (m : Nat) : v.getLsbD (bitPos bits m) = (displayedValue bits v).testBit m := by
    rw [displayedValue, Nat.testBit_div_two_pow, BitVec.getLsbD, bitPos, channelBits,
      show m + 8 - bits = m + (8 - bits) by omega]
  simp only [hbit]
  rw [sum_testBit, Nat.mod_eq_of_lt hlt]

/-- Settles O44: plane by plane, where no floor loses anything exactly so. -/
theorem litTimeIsProportional : Obligations.LitTimeIsProportional := by
  intro bits h v hpos hle
  rw [displayedValue_eq_sum hle, litOfValue, ← List.sum_map_mul_right, ← List.sum_map_mul_right]
  refine ⟨List.sum_le_sum fun m _ => ?_, fun hdvd => congrArg List.sum (List.map_congr_left fun m _ => ?_)⟩
  · have := duration_mul_le bits h m
    split
    · rwa [Nat.mul_comm]
    · simp
  · split
    · exact Nat.div_mul_cancel (Dvd.dvd.mul_left hdvd _)
    · simp

/-! ### The light of a pass (R89, R109) -/

/-- A channel's line for a plane is its bit of the channel's value. -/
theorem line_planeLines (ch : Channel) (bits mask : Nat) (c : Color) :
    ch.line (planeLines bits mask c) = (ch.value c).getLsbD (bitPos bits mask) := by
  cases ch <;> rfl

/-- A plane's frame drives a cell's own lines, on the cell's row only. -/
theorem lines_planeFrame (m : Mem) (bits h : Nat) (row : Fin 16) (mask : Fin 8) (a : FbAddr) :
    (planeFrame m bits h row mask).lines a =
      if row = a.row then some (planeLines bits mask (m.readCell a)) else none := by
  obtain ⟨half, r, c⟩ := a
  by_cases heq : row = r
  · subst heq
    cases half <;> simp [Frame.lines, planeFrame, columnBits]
  · have hne : row.val ≠ r.val := fun e => heq (Fin.ext e)
    simp [Frame.lines, planeFrame, hne, heq]

theorem litUnits_planeFrame (ch : Channel) (m : Mem) (bits h : Nat) (row : Fin 16) (mask : Fin 8) (a : FbAddr) :
    (planeFrame m bits h row mask).litUnits ch a =
      if row = a.row then
        if (ch.value (m.readCell a)).getLsbD (bitPos bits mask) then duration bits h mask else 0
      else 0 := by
  rw [Frame.litUnits, lines_planeFrame]
  by_cases heq : row = a.row <;> simp [heq, line_planeLines, planeFrame]

/-- Settles O43: only the cell's own row lights it, by its planes. -/
theorem passLightsEachChannelForItsPlanes : Obligations.PassLightsEachChannelForItsPlanes := by
  intro m bits h ch a _ hle
  have hrow (row : Fin 16) : (((planes bits).map (planeFrame m bits h row)).map (Frame.litUnits ch a)).sum =
      if row = a.row then litOfValue bits h (ch.value (m.readCell a)) else 0 := by
    rw [List.map_map, litOfValue, ← planes_map_val hle, List.map_map]
    by_cases heq : row = a.row <;> simp [Function.comp_def, litUnits_planeFrame, heq]
  rw [litUnits, passFrames, sum_map_flatMap]
  simp only [hrow]
  rw [List.sum_map_eq_nsmul_single a.row _ fun row hne _ => if_neg hne,
    List.count_eq_one_of_mem (List.nodup_finRange 16) (List.mem_finRange _)]
  simp

end Sys2Proof.Machine
end
